-- ==== Sys2Proof/Word.lean ====
section
/-! DEFINITION. The word types of LFACQ: an 8-bit byte (a raw sample, a buffer byte) and a 32-bit word
(an operand register, a counter), and how a truth value stands as a number of some width. -/

namespace Sys2Proof

/-- A byte of the capture buffer, and a raw sample `u8` (20_memory.md R70, 00_scope.md R11). -/
abbrev Byte := BitVec 8

/-- A 32-bit register (00_scope.md R9): `u32` read by `toNat`, `s32` read by `toInt`. -/
abbrev Word := BitVec 32

/-- A one-bit flag as a number of width `n`: 1 when it is set, else 0. -/
def flagBit (n : Nat) (b : Bool) : BitVec n := if b then 1#n else 0#n

end Sys2Proof
end

