-- ==== Sys2Proof/Config.lean ====
section
/-! DEFINITION. The parameters of 00_scope.md R8: those the source fixes, those left OPEN (opaque constants inside the
constraints of R8, so that nothing in Lean can evaluate them), and the free values of the model. -/

namespace Sys2Proof.Config

/-- `MID`, the mid-rail (00_scope.md R8). -/
def mid : Nat := 128
/-- `EDGE_HI = MID + 60` (00_scope.md R8). -/
def edgeHi : Nat := mid + 60
/-- `EDGE_LO = MID - 60` (00_scope.md R8). -/
def edgeLo : Nat := mid - 60
/-- `EDGE_TOL` (00_scope.md R8). -/
def edgeTol : Nat := 5
/-- `EDGE_SKIP_MAX` (00_scope.md R8). -/
def edgeSkipMax : Nat := 1000
/-- `M_HI = MID + 5` (00_scope.md R8). -/
def manHi : Nat := mid + 5
/-- `M_LO = MID - 5` (00_scope.md R8). -/
def manLo : Nat := mid - 5
/-- `T1`, in raw samples (00_scope.md R8). -/
def t1 : Nat := 384
/-- `NOISE_MAX = 2 * T1` (00_scope.md R8). -/
def noiseMax : Nat := 2 * t1

/-- The OPEN parameters of 00_scope.md R8 that are numbers. The width of `cap` is its constraint
`0 <= CAP <= 2^29 - 1`. -/
structure Params where
  /-- `CAP`, the capacity of the capture buffer in bytes. -/
  cap : BitVec 29
  /-- `DIV_125K`, the reset value of the divisor field. -/
  div125k : BitVec 8
  /-- `DIV_STD`, the "standard" preset of ARM. -/
  divStd : BitVec 8
  /-- `DIV_HIGH`, the "high" preset of ARM. -/
  divHigh : BitVec 8
  /-- `RACE_CHECK_PERIOD`. -/
  racePeriod : Word
  /-- `SETTLE`, carried by the event `WAIT_SETTLE` and never read (43_frontend.md R203). -/
  settle : Nat
deriving DecidableEq, Repr

/-- The constraints of 00_scope.md R8 on the OPEN parameters: the divisors are 19 to 255, the period is not 0. -/
def Params.wf (p : Params) : Bool :=
  decide (19 ≤ p.div125k.toNat) && decide (19 ≤ p.divStd.toNat) && decide (19 ≤ p.divHigh.toNat)
    && decide (1 ≤ p.racePeriod.toNat)

/-- OPEN `CAP`: no value is known of it. -/
opaque cap : BitVec 29
/-- OPEN `DIV_125K`, as its distance from 19. -/
opaque div125kAbove19 : Fin 237
/-- OPEN `DIV_STD`, as its distance from 19. -/
opaque divStdAbove19 : Fin 237
/-- OPEN `DIV_HIGH`, as its distance from 19. -/
opaque divHighAbove19 : Fin 237
/-- OPEN `RACE_CHECK_PERIOD`, as its distance from 1. -/
opaque racePeriodAbove1 : Fin 4294967295
/-- OPEN `SETTLE`. -/
opaque settle : Nat

/-- The OPEN parameters together, inside the constraints of 00_scope.md R8 and otherwise unknown. -/
def params : Params where
  cap := cap
  div125k := BitVec.ofNat 8 (19 + div125kAbove19.val)
  divStd := BitVec.ofNat 8 (19 + divStdAbove19.val)
  divHigh := BitVec.ofNat 8 (19 + divHighAbove19.val)
  racePeriod := BitVec.ofNat 32 (1 + racePeriodAbove1.val)
  settle := settle

/-- OPEN `PostOffset` (00_scope.md R8, 42_acquire.md R184): from the bytes of the region, the byte at each offset of
it afterwards. The length of the region cannot change. -/
opaque postOffset : List Byte → Nat → Byte

/-- Free value: the input word of the `n`-th poll iteration for which the environment's list gives none
(30_encoding.md R112, "the inputs are free"). -/
opaque freeInput : Nat → BitVec 12

end Sys2Proof.Config
end

