-- ==== Sys2Proof/Syntax.lean ====
section
/-! DEFINITION. The commands of LFACQ, one constructor per row of the opcode table (30_encoding.md R104), their
operand formats (R102), and the command lines of R119. A command word has no operand field: the operands are the
`ARG` registers, so the constructors have no arguments. -/

namespace Sys2Proof

/-- The ten commands of 30_encoding.md R104. -/
inductive Instr
  /-- 0x01, `merge(partial)`: 41_config.md R140. -/
  | cfgmerge
  /-- 0x02, `current()`: 41_config.md R150. -/
  | cfgrd
  /-- 0x10, `acquire(...)`: 42_acquire.md R160. -/
  | acq
  /-- 0x11, `readLF(...)`: 43_frontend.md R205. -/
  | readlf
  /-- 0x12, the reader-mode entry point: 43_frontend.md R210. -/
  | reader
  /-- 0x13, the sniffer-mode entry point: 43_frontend.md R211. -/
  | sniff
  /-- 0x14, `armFrontEnd(...)`: 43_frontend.md R200. -/
  | arm
  /-- 0x20, EdgeCapture: 44_edge_capture.md R220. -/
  | edge
  /-- 0x30, ManchesterCapture variant A: 45_manchester.md R240. -/
  | mfill
  /-- 0x31, ManchesterCapture variant B: 45_manchester.md R254. -/
  | mbits
deriving DecidableEq, Repr

/-- Why a command word is illegal (30_encoding.md R116). -/
inductive DecodeError
  /-- `w[31:8]` is not 0. -/
  | nonZeroUpper
  /-- `w[7:0]` is none of the ten opcodes. -/
  | reservedOpcode
deriving DecidableEq, Repr

/-- How an operand register is read (30_encoding.md R102). -/
inductive OperandType
  | u32
  | s32
deriving DecidableEq, Repr

/-- The operand formats of 30_encoding.md R102. -/
inductive Format
  | z | m7 | a7 | f2 | f3 | l1
deriving DecidableEq, Repr

/-- The operands a format reads, `ARG[0]` first, each with its type (30_encoding.md R102). -/
def Format.operands : Format → List OperandType
  | .z => []
  | .m7 => [.s32, .s32, .s32, .s32, .s32, .s32, .s32]
  | .a7 => [.u32, .u32, .u32, .s32, .u32, .u32, .s32]
  | .f2 => [.u32, .u32]
  | .f3 => [.u32, .u32, .u32]
  | .l1 => [.u32]

/-- The format of each command (30_encoding.md R104). -/
def Instr.format : Instr → Format
  | .cfgmerge => .m7
  | .cfgrd => .z
  | .acq => .a7
  | .readlf => .f3
  | .reader => .f2
  | .sniff => .z
  | .arm => .f2
  | .edge => .l1
  | .mfill => .l1
  | .mbits => .l1

/-- The kind column of 30_encoding.md R104: a looping command sets `BUSY` and works in later poll iterations, an
instantaneous one runs to completion inside the host access. -/
def Instr.looping : Instr → Bool
  | .cfgmerge => false
  | .cfgrd => false
  | .acq => true
  | .readlf => true
  | .reader => true
  | .sniff => true
  | .arm => false
  | .edge => true
  | .mfill => true
  | .mbits => true

/-- "ACQ family" of 10_state.md R45: the commands that run the generic engine. -/
def Instr.acqFamily : Instr → Bool
  | .cfgmerge => false
  | .cfgrd => false
  | .acq => true
  | .readlf => true
  | .reader => true
  | .sniff => true
  | .arm => false
  | .edge => false
  | .mfill => false
  | .mbits => false

/-- "READLF family" of 30_encoding.md R113: the commands that arm the front end and power it off again. -/
def Instr.readlfFamily : Instr → Bool
  | .cfgmerge => false
  | .cfgrd => false
  | .acq => false
  | .readlf => true
  | .reader => true
  | .sniff => true
  | .arm => false
  | .edge => false
  | .mfill => false
  | .mbits => false

/-- A command line of 30_encoding.md R119: the mnemonic and the values of its operands in the order of R105. A value
is written in decimal or in hexadecimal, so an integer stands for both spellings. -/
structure CommandLine where
  instr : Instr
  operands : List Int
deriving DecidableEq, Repr

end Sys2Proof
end

