-- ==== Sys2Proof/WellFormed.lean ====
section
/-! DEFINITION. Well-formed command lines. An `Instr` has no field, so every term of it is a command of 30_encoding.md
R104 and needs no check; what can be ill formed is a command line of R119: the wrong number of operands, or a value
that no 32-bit register holds. -/

namespace Sys2Proof

/-- The line names exactly the operands of its command's format (30_encoding.md R102, R119). -/
def CommandLine.countOk (c : CommandLine) : Bool :=
  c.operands.length == c.instr.format.operands.length

/-- Every operand is the value of some 32-bit register, read as `s32` or as `u32` (00_scope.md R11): V22 of
95_test_vectors.md writes 0x80000000 for an `s32` operand, and R119 writes -1. -/
def CommandLine.valuesOk (c : CommandLine) : Bool :=
  c.operands.all fun v => decide (-(2 ^ 31) ≤ v) && decide (v < 2 ^ 32)

/-- A command line that stands for host accesses (30_encoding.md R119). -/
def CommandLine.wellFormed (c : CommandLine) : Bool := c.countOk && c.valuesOk

end Sys2Proof
end

