-- ==== Sys2Proof/Decode.lean ====
section
/-! DEFINITION. Decoding: the command word (30_encoding.md R103, R104), the register numbers of a host access
(10_state.md R46) and the input word of a poll iteration (R112); after them the encoders, from the same tables. -/

namespace Sys2Proof

/-- The `opcode` field `w[7:0]` of a command word (30_encoding.md R103). -/
def opcodeField (w : Word) : BitVec 8 := w.extractLsb' 0 8

/-- The `zero` field `w[31:8]` of a command word (30_encoding.md R103). -/
def zeroField (w : Word) : BitVec 24 := w.extractLsb' 8 24

/-- The opcode map of 30_encoding.md R104, in the rule's order. -/
def opcodeMap : List (BitVec 8 × Instr) :=
  [(0x01#8, .cfgmerge), (0x02#8, .cfgrd), (0x10#8, .acq), (0x11#8, .readlf), (0x12#8, .reader),
   (0x13#8, .sniff), (0x14#8, .arm), (0x20#8, .edge), (0x30#8, .mfill), (0x31#8, .mbits)]

/-- The command an opcode names, if it is not reserved (30_encoding.md R104). -/
def decodeOpcode (op : BitVec 8) : Option Instr :=
  (opcodeMap.find? fun row => row.1 == op).map fun row => row.2

/-- The decoder of command words: the command, or why the word is illegal (30_encoding.md R101, R116). -/
def decode (w : Word) : Except DecodeError Instr :=
  if zeroField w = 0#24 then
    match decodeOpcode (opcodeField w) with
    | some i => .ok i
    | none => .error .reservedOpcode
  else .error .nonZeroUpper

/-- The opcode of each command (30_encoding.md R104). -/
def Instr.opcode : Instr → BitVec 8
  | .cfgmerge => 0x01#8
  | .cfgrd => 0x02#8
  | .acq => 0x10#8
  | .readlf => 0x11#8
  | .reader => 0x12#8
  | .sniff => 0x13#8
  | .arm => 0x14#8
  | .edge => 0x20#8
  | .mfill => 0x30#8
  | .mbits => 0x31#8

/-- The command word of a command: `zero` above, `opcode` below (30_encoding.md R103). -/
def encode (i : Instr) : Word := 0#24 ++ i.opcode

/-- The command the decoder reads from a table word of `nbits` bits, the bits above them 0. A command is one 32-bit
word accessed as a whole, so there is no byte order to lay out (30_encoding.md R100, 20_memory.md R73). -/
def decodeTableWord (nbits w : Nat) : Option Instr :=
  match decode (BitVec.ofNat 32 (w % 2 ^ nbits)) with
  | .ok i => some i
  | .error _ => none

/-- The registers the host sees (10_state.md R46). -/
inductive HostReg
  | cmd | status | result | arg (i : Fin 7) | capr
deriving DecidableEq, Repr

/-- The register of a number, if there is one (10_state.md R46): 0 `CMD`, 1 `STATUS`, 2 `RESULT`, 3 to 9 `ARG`,
10 `CAPR`. -/
def decodeReg (n : Nat) : Option HostReg :=
  if n = 0 then some .cmd
  else if n = 1 then some .status
  else if n = 2 then some .result
  else if h : 3 ≤ n ∧ n ≤ 9 then some (.arg ⟨n - 3, by omega⟩)
  else if n = 10 then some .capr
  else none

/-- The number of a register (10_state.md R46). -/
def HostReg.number : HostReg → Nat
  | .cmd => 0
  | .status => 1
  | .result => 2
  | .arg i => 3 + i.val
  | .capr => 10

/-- The input tuple of a poll iteration (30_encoding.md R112). -/
structure Input where
  sample : Byte
  rxReady : Bool
  txReady : Bool
  abort : Bool
  dataAvail : Bool
deriving DecidableEq, Repr

/-- The fields of an input word: bits 7:0 `sample`, 8 `rxReady`, 9 `txReady`, 10 `abort`, 11 `dataAvail`
(30_encoding.md R112). -/
def decodeInput (w : BitVec 12) : Input where
  sample := w.extractLsb' 0 8
  rxReady := w.getLsbD 8
  txReady := w.getLsbD 9
  abort := w.getLsbD 10
  dataAvail := w.getLsbD 11

/-- The input word of an input tuple (30_encoding.md R112). -/
def encodeInput (i : Input) : BitVec 12 :=
  flagBit 1 i.dataAvail ++ flagBit 1 i.abort ++ flagBit 1 i.txReady ++ flagBit 1 i.rxReady ++ i.sample

/-- An operand of a command line as the value of its register, two's complement (30_encoding.md R119). -/
def encodeOperand (v : Int) : Word := BitVec.ofInt 32 v

/-- The register writes a command line stands for: each operand to its `ARG` register, then the command word to `CMD`
(30_encoding.md R119, 70_reset_and_hazards.md R314). -/
def encodeLine (c : CommandLine) : List (Nat × Word) :=
  (c.operands.mapIdx fun k v => (3 + k, encodeOperand v)) ++ [(0, encode c.instr)]

end Sys2Proof
end

