-- ==== Sys2Proof/Machine/State.lean ====
section
/-! DEFINITION. The state of LFACQ as plain data: the registers of 10_state.md R21 to R57, the capture buffer of
20_memory.md R70, and the model's own fields (the OPEN parameters, the environment's list, the event trace). -/

namespace Sys2Proof.Machine

/-- Why a step can stop. -/
inductive Fault
  /-- A write of the block at a buffer offset `>= CAP`. Raised by `memWrite` and `memRead`, hence by BPW and the byte
  writes (20_memory.md R78, U1). Safe: the spec asks for a fault here; no command reaches it from a legal state. -/
  | outsideBuffer
  /-- A host read of a buffer byte at an offset `>= CAP` (00_scope.md R13: outside the buffer). Raised by the host
  access. Safe: the byte does not exist. -/
  | hostReadOutside
  /-- A poll iteration with `BUSY = 1` and an `OP` that names no looping command. Raised by `pollIteration`. Safe: the
  spec gives no such state (10_state.md R21) and none is reached. -/
  | noEngine
  /-- An iteration of EDGE, MFILL or MBITS at a `PHASE` value that is never taken (10_state.md R22). Raised by the
  engines. Safe: no such state is reached. -/
  | noPhase
deriving DecidableEq, Repr

/-- Why an instruction has no meaning. -/
inductive Refusal
  /-- A command the model does not give a meaning. No arm of `exec` raises it. Safe: the model stops. -/
  | notModelled (mnemonic : String)
deriving DecidableEq, Repr

/-- Termination causes (60_exceptions.md R270). Codes 7 to 15 are never written. -/
inductive Cause
  | none | done | noSignal | userAbort | raceAbort | noEdge | noiseTimeout
deriving DecidableEq, Repr

/-- The payload of a `DIAG` event (30_encoding.md R113). -/
inductive DiagKind
  | config | summary
deriving DecidableEq, Repr

/-- The output events (30_encoding.md R113). -/
inductive Event
  | wdtKick
  | feLoadBitstream
  | feSetDivisor (v : BitVec 8)
  | feSetMode (field : Bool)
  | feRoutePeak
  | waitSettle
  | feStartClock
  | feOff
  | postOffset (n : Word)
  | postScore (n : Word)
  | diag (kind : DiagKind)
deriving DecidableEq, Repr

/-- One move of the environment: a host access or the input of a poll iteration (00_scope.md R15), or the offset
remover acting on the buffer (42_acquire.md R184). -/
inductive Move
  /-- A host read of the register of that number. -/
  | read (reg : Nat)
  /-- A host write of `v` to the register of that number. -/
  | write (reg : Nat) (v : Word)
  /-- A host read of one buffer byte. -/
  | readByte (offset : Nat)
  /-- One poll iteration with that input word (30_encoding.md R112). -/
  | poll (input : BitVec 12)
  /-- The collaborator `removeOffset` acts on the region it was last called with. -/
  | removeOffset
deriving DecidableEq, Repr

/-- The operand registers `ARG[0]` to `ARG[6]` (10_state.md R50). -/
structure Args where
  arg0 : Word
  arg1 : Word
  arg2 : Word
  arg3 : Word
  arg4 : Word
  arg5 : Word
  arg6 : Word
deriving DecidableEq, Repr

/-- The configuration register file (10_state.md R51 to R57). -/
structure SamplingConfig where
  decimation : BitVec 3
  bitsPerSample : BitVec 4
  averaging : Bool
  divisor : BitVec 8
  /-- s32, never negative (R55). -/
  triggerThreshold : Word
  /-- s32, never negative (R56). -/
  samplesToSkip : Word
  verbose : Bool
deriving DecidableEq, Repr

/-- The operand latches of a call (10_state.md R23). -/
structure Latches where
  /-- `L_DEC` -/
  dec : Word
  /-- `L_BPS` -/
  bps : BitVec 4
  /-- `L_AVG` -/
  avg : Bool
  /-- `L_THR`, s32 -/
  thr : Word
  /-- `L_BUDGET` -/
  budget : Word
  /-- `L_CANCEL` -/
  cancel : Word
  /-- `L_LIMIT` -/
  limit : Word
  /-- `L_FIELD` -/
  field : Bool
  /-- `L_VERBOSE` -/
  verbose : Bool
deriving DecidableEq, Repr

/-- The trigger state machine and the SampleStore (10_state.md R24 to R29). -/
structure SampleStore where
  armed : Bool
  cancelCnt : Word
  raceCnt : Word
  /-- s32, never negative -/
  skipLeft : Word
  remainingBudget : Word
  decCounter : Word
  /-- The moving-average accumulator (R28). -/
  runningSum : BitVec 40
  totalAccepted : Word
deriving DecidableEq, Repr

/-- The BitPacker registers (10_state.md R30, R31). -/
structure BitPacker where
  position : Word
  numBits : Word
deriving DecidableEq, Repr

/-- The registers of EDGE (10_state.md R34, R35). -/
structure EdgeRegs where
  lastSample : Byte
  skipCnt : Word
deriving DecidableEq, Repr

/-- The registers of MFILL and MBITS (10_state.md R36 to R39). -/
structure ManRegs where
  noiseCnt : Word
  hold : Byte
  curr : Bool
  prev : Bool
  period : Word
deriving DecidableEq, Repr

/-- The bytes of the capture buffer that differ from what an unlisted byte reads as, by offset. -/
structure Memory where
  cells : List Host.Cell
deriving DecidableEq, Repr

/-- The machine. -/
structure State where
  /-- `BUSY` (10_state.md R21) -/
  busy : Bool
  /-- `OP` (10_state.md R21) -/
  op : BitVec 8
  /-- `PHASE` as stored; the ACQ family's is computed instead (10_state.md R22, log 7) -/
  phaseReg : BitVec 3
  /-- `STATUS.ILL` (10_state.md R48) -/
  ill : Bool
  /-- `STATUS.REJ` (10_state.md R48) -/
  rej : Bool
  /-- `STATUS.CAUSE` (10_state.md R48) -/
  cause : Cause
  /-- `RESULT` (10_state.md R49) -/
  result : Word
  args : Args
  cfg : SamplingConfig
  lat : Latches
  acq : SampleStore
  bp : BitPacker
  /-- `idx` (10_state.md R33) -/
  idx : Word
  edge : EdgeRegs
  man : ManRegs
  /-- `BUF` (20_memory.md R70) -/
  buf : Memory
  /-- MODEL: the OPEN parameters of 00_scope.md R8 (log 3) -/
  params : Config.Params
  /-- MODEL: the environment's moves still to come, oldest first (log 4) -/
  pending : List Move
  /-- MODEL: how many free inputs have been read (log 5) -/
  freeIndex : Nat
  /-- MODEL: the output event trace (10_state.md R62, log 8) -/
  trace : List Event
  /-- MODEL: the value the last host read returned (log 8) -/
  readData : Word
  /-- MODEL: how many samples the block has consumed (30_encoding.md R115, log 8) -/
  samplesRead : Nat
  /-- MODEL: the region of a `POST_OFFSET` that has not been acted on (log 9) -/
  postDue : Option Word
deriving DecidableEq, Repr

/-- The number `CAP` (00_scope.md R8). -/
def State.cap (s : State) : Nat := s.params.cap.toNat

/-- DESIGN CHOICE (log 1, unsafe): what a buffer byte that is not listed reads as; 20_memory.md R79 leaves the contents
after reset unspecified. -/
def unlistedByte : Byte := 0#8

/-- The machine right after reset (10_state.md R64, 70_reset_and_hazards.md R310). The latches and the working registers
are unspecified there: 0 is a DESIGN CHOICE (log 2, unsafe). -/
def State.reset : State where
  busy := false
  op := 0#8
  phaseReg := 0#3
  ill := false
  rej := false
  cause := .none
  result := 0#32
  args := ⟨0#32, 0#32, 0#32, 0#32, 0#32, 0#32, 0#32⟩
  cfg :=
    { decimation := 1#3
      bitsPerSample := 8#4
      averaging := true
      divisor := Config.params.div125k
      triggerThreshold := 0#32
      samplesToSkip := 0#32
      verbose := true }
  lat := ⟨0#32, 0#4, false, 0#32, 0#32, 0#32, 0#32, false, false⟩
  acq := ⟨false, 0#32, 0#32, 0#32, 0#32, 0#32, 0#40, 0#32⟩
  bp := ⟨0#32, 0#32⟩
  idx := 0#32
  edge := ⟨0#8, 0#32⟩
  man := ⟨0#32, 0#8, false, false, 0#32⟩
  buf := ⟨[]⟩
  params := Config.params
  pending := []
  freeIndex := 0
  trace := []
  readData := 0#32
  samplesRead := 0
  postDue := none

end Sys2Proof.Machine
end

