-- ==== Sys2Proof/Machine/Ops.lean ====
section
/-! DEFINITION. The operations every engine shares: the buffer (20_memory.md), events, the result of an engine's step,
acceptance and rejection of a command (30_encoding.md R101), and the terminating step (60_exceptions.md R283), which is
this block's counterpart of taking an exception and returning from it. -/

namespace Sys2Proof.Machine

/-! ### The capture buffer -/

/-- The byte at an offset of a list of cells. -/
def readCells : List Host.Cell → Nat → Byte
  | [], _ => unlistedByte
  | c :: cs, a => if c.1 = a then c.2 else readCells cs a

/-- A list of rising cells with the byte at `a` replaced; a byte equal to what an unlisted one reads as is not
listed. -/
def writeCells : List Host.Cell → Nat → Byte → List Host.Cell
  | [], a, v => if v = unlistedByte then [] else [(a, v)]
  | c :: cs, a, v =>
    if a < c.1 then (if v = unlistedByte then c :: cs else (a, v) :: c :: cs)
    else if a = c.1 then (if v = unlistedByte then cs else (a, v) :: cs)
    else c :: writeCells cs a v

/-- Cells in canonical form: offsets at least `lo` and strictly rising, no cell equal to what an unlisted offset reads
as. -/
def cellsWf : Nat → List Host.Cell → Bool
  | _, [] => true
  | lo, c :: cs => decide (lo ≤ c.1) && (!decide (c.2 = unlistedByte) && cellsWf (c.1 + 1) cs)

/-- `BUF[a]`, with no bound check (00_scope.md R13). -/
def Memory.read (m : Memory) (a : Nat) : Byte := readCells m.cells a

/-- `BUF[a] <- v`, with no bound check (00_scope.md R13). -/
def Memory.write (m : Memory) (a : Nat) (v : Byte) : Memory := ⟨writeCells m.cells a v⟩

/-- The canonical form of the buffer's cells. -/
def Memory.wf (m : Memory) : Bool := cellsWf 0 m.cells

/-- Every listed cell lies inside the buffer of `cap` bytes (20_memory.md R70). -/
def Memory.within (m : Memory) (cap : Nat) : Bool := m.cells.all fun c => decide (c.1 < cap)

/-- `MemRead(a, 1)`: a read of the block (00_scope.md R13); outside the buffer it faults (20_memory.md R78). -/
def memRead (s : State) (a : Nat) : Except Fault Byte :=
  if a < s.cap then .ok (s.buf.read a) else .error .outsideBuffer

/-- `MemWrite(a, 1, v)`: a write of the block; outside the buffer it faults and never wraps, drops or clamps
(20_memory.md R78). -/
def memWrite (s : State) (a : Nat) (v : Byte) : Except Fault State :=
  if a < s.cap then .ok { s with buf := s.buf.write a v } else .error .outsideBuffer

/-! ### Events -/

/-- `emit E` (00_scope.md R14). -/
def State.emit (s : State) (e : Event) : State := { s with trace := s.trace ++ [e] }

/-- Several events in order. -/
def State.emitAll (s : State) (es : List Event) : State := { s with trace := s.trace ++ es }

/-- The block takes the sample of this iteration from the peripheral (30_encoding.md R115). -/
def State.consumeSample (s : State) : State := { s with samplesRead := s.samplesRead + 1 }

/-! ### Which command is running -/

/-- `OP` names a command with property `p`. -/
def opIs (p : Instr → Bool) (s : State) : Bool :=
  match decodeOpcode s.op with
  | some i => p i
  | none => false

/-! ### What a part of an iteration answers -/

/-- The answer of a micro-operation or an engine line: go on, stop this iteration because the sample was used up,
`raise Terminate(cause)` (00_scope.md R14), or a fault. -/
inductive Flow
  | pass (s : State)
  | discard (s : State)
  | terminate (cause : Cause) (s : State)
  | fault (f : Fault)
deriving DecidableEq, Repr

/-- The next line of an iteration runs only after a line that went on; writes already made stand (60_exceptions.md
R283 line 1). -/
def Flow.andThen (f : Flow) (k : State → Flow) : Flow :=
  match f with
  | .pass s => k s
  | .discard s => .discard s
  | .terminate c s => .terminate c s
  | .fault e => .fault e

/-- A buffer access as a line of an iteration. -/
def Flow.ofAccess (r : Except Fault State) : Flow :=
  match r with
  | .ok s => .pass s
  | .error f => .fault f

/-! ### The terminating step -/

/-- The post-processing collaborators are called over `[0, n)` (42_acquire.md R184, 45_manchester.md R253). -/
def postProcess (n : Word) (s : State) : State :=
  { s.emitAll [.postOffset n, .postScore n] with postDue := some n }

/-- Line 2 of 60_exceptions.md R283: the post-processing events of the ACQ family and of MFILL. -/
def terminatePost (s : State) : State :=
  if opIs Instr.acqFamily s then postProcess s.acq.totalAccepted s
  else if opIs (fun i => decide (i = .mfill)) s then postProcess s.idx s
  else s

/-- Line 3 of 60_exceptions.md R283: the READLF family powers the front end off, and reports when verbose. -/
def terminateFrontEnd (s : State) : State :=
  if opIs Instr.readlfFamily s then
    s.emitAll (.feOff :: if s.lat.verbose then [.diag .summary] else [])
  else s

/-- What a looping command returns: `numBits` for the ACQ family, `idx` for EDGE, MFILL and MBITS (60_exceptions.md
R283 line 4). -/
def resultOf (s : State) : Word := if opIs Instr.acqFamily s then s.bp.numBits else s.idx

/-- The terminating step (60_exceptions.md R283): events, `RESULT`, `CAUSE`, and the return `BUSY <- 0` (R285). -/
def terminateCall (c : Cause) (s : State) : State :=
  { terminateFrontEnd (terminatePost s) with result := resultOf s, cause := c, busy := false }

/-- A whole poll iteration as the outcome of a step. -/
def Flow.finish (f : Flow) : Host.Outcome State Fault Refusal :=
  match f with
  | .pass s => .next s
  | .discard s => .next s
  | .terminate c s => .next (terminateCall c s)
  | .fault e => .fault e

/-! ### Acceptance and rejection of a command -/

/-- An illegal command word sets `STATUS.ILL` and changes nothing else (30_encoding.md R116). -/
def State.flagIllegal (s : State) : State := { s with ill := true }

/-- A legal command word during a call sets `STATUS.REJ` and changes nothing else (30_encoding.md R117). -/
def State.rejectCommand (s : State) : State := { s with rej := true }

/-- The last two branches of 30_encoding.md R101: rejection during a call, else `OP <- w[7:0]` and the acceptance
rule `k` of the command. -/
def acceptWhenIdle (i : Instr) (k : State → State) (s : State) : Host.Outcome State Fault Refusal :=
  if s.busy then .next s.rejectCommand else .next (k { s with op := i.opcode })

/-- The end of an instantaneous command (30_encoding.md R101, 41_config.md R149): `PHASE <- 0`, `CAUSE <- DONE`,
`RESULT <- 0`. -/
def completeInstant (s : State) : State := { s with phaseReg := 0#3, cause := .done, result := 0#32 }

/-- The end of every looping acceptance: `CAUSE <- 0 ; BUSY <- 1` (30_encoding.md R101). From here on the block is the
buffer's one writer (20_memory.md R83), so an offset removal of an earlier call can no longer act (log 9). -/
def beginCall (s : State) : State := { s with cause := .none, busy := true, postDue := none }

end Sys2Proof.Machine
end

