-- ==== Sys2Proof/Machine/Operands.lean ====
section
/-! DEFINITION. Operand decoding: how each `ARG` register or configuration field becomes a latched value (30_encoding.md
R106 to R111 and R114). -/

namespace Sys2Proof.Machine

/-- `ARG[i]` (10_state.md R50). -/
def Args.get (x : Args) : Fin 7 → Word
  | 0 => x.arg0
  | 1 => x.arg1
  | 2 => x.arg2
  | 3 => x.arg3
  | 4 => x.arg4
  | 5 => x.arg5
  | 6 => x.arg6

/-- `ARG[i] <- v` (10_state.md R50). -/
def Args.set (x : Args) (i : Fin 7) (v : Word) : Args :=
  match i with
  | 0 => { x with arg0 := v }
  | 1 => { x with arg1 := v }
  | 2 => { x with arg2 := v }
  | 3 => { x with arg3 := v }
  | 4 => { x with arg4 := v }
  | 5 => { x with arg5 := v }
  | 6 => { x with arg6 := v }

/-- An operand read as a truth value: non-zero is true (30_encoding.md R106, R109, R114). -/
def truth (w : Word) : Bool := !decide (w = 0#32)

/-- `L_DEC`: 0 is treated as 1 (30_encoding.md R106). -/
def decOperand (w : Word) : Word := if w = 0#32 then 1#32 else w

/-- `L_BPS`: 0 is treated as 1, values above 8 are clamped to 8 (30_encoding.md R106). -/
def bpsOperand (w : Word) : BitVec 4 :=
  if w = 0#32 then 1#4 else if 8 < w.toNat then 8#4 else w.setWidth 4

/-- The clamp of a budget or limit to the capacity (30_encoding.md R107, R110). -/
def clampToCap (s : State) (w : Word) : Word := BitVec.ofNat 32 (min w.toNat s.cap)

/-- `max(sext_32(ARG), 0)`: a negative skip count is 0 (30_encoding.md R108). -/
def skipOperand (w : Word) : Word := if w.toInt < 0 then 0#32 else w

/-- `sext_32` of an operand of CFGMERGE (30_encoding.md R111). -/
def sext32 (w : Word) : Int := w.toInt

/-- The latches of ACQ, from its operands (30_encoding.md R106 to R108). The latches ACQ does not name are left as they
are. -/
def acqLatches (s : State) : Latches :=
  { s.lat with
    dec := decOperand s.args.arg0
    bps := bpsOperand s.args.arg1
    avg := truth s.args.arg2
    thr := s.args.arg3
    budget := clampToCap s s.args.arg4
    cancel := s.args.arg5 }

/-- The latches of the READLF family, from the configuration, with the field, verbosity and budget the command gives
(30_encoding.md R109). -/
def cfgLatches (field verbose : Bool) (budget : Word) (s : State) : Latches :=
  { s.lat with
    dec := s.cfg.decimation.setWidth 32
    bps := s.cfg.bitsPerSample
    avg := s.cfg.averaging
    thr := s.cfg.triggerThreshold
    budget := clampToCap s budget
    cancel := 0#32
    field := field
    verbose := verbose }

/-- The effective divisor of ARM (43_frontend.md R201). -/
def effDiv (p : Config.Params) (d : Word) : BitVec 8 :=
  if d = 0#32 then p.divStd
  else if 19 ≤ d.toNat ∧ d.toNat ≤ 255 then d.setWidth 8
  else p.divHigh

end Sys2Proof.Machine
end

