-- ==== Sys2Proof/Machine/Flags.lean ====
section
/-! DEFINITION. The status word and the flag-like conditions (10_state.md R22, R40, R48, R59; 60_exceptions.md R270). -/

namespace Sys2Proof.Machine

/-- The code of a cause (60_exceptions.md R270). -/
def causeCode : Cause → BitVec 4
  | .none => 0#4
  | .done => 1#4
  | .noSignal => 2#4
  | .userAbort => 3#4
  | .raceAbort => 4#4
  | .noEdge => 5#4
  | .noiseTimeout => 6#4

/-- `PHASE` of the ACQ family: `WAIT_TRIGGER`, `SKIPPING` or `LOGGING` (10_state.md R22). -/
def acqPhase (r : SampleStore) : BitVec 3 :=
  if r.armed then 0#3 else if 0 < r.skipLeft.toInt then 1#3 else 2#3

/-- `PHASE` (10_state.md R22). -/
def phase (s : State) : BitVec 3 := if opIs Instr.acqFamily s then acqPhase s.acq else s.phaseReg

/-- `STATUS` (10_state.md R48). -/
def statusWord (s : State) : Word :=
  0#13 ++ phase s ++ s.op ++ causeCode s.cause ++ 0#1 ++ flagBit 1 s.rej ++ flagBit 1 s.ill ++ flagBit 1 s.busy

/-- `PHASE` values of EDGE (10_state.md R22, 44_edge_capture.md R221). -/
inductive EdgePhase
  | seekSkip | seekHigh | seekLow | preCollect | collecting
deriving DecidableEq, Repr

/-- The encoding of EDGE's states (44_edge_capture.md R221). -/
def edgePhaseBits : EdgePhase → BitVec 3
  | .seekSkip => 0#3
  | .seekHigh => 1#3
  | .seekLow => 2#3
  | .preCollect => 3#3
  | .collecting => 4#3

/-- EDGE's state, if `PHASE` is one of its five values. -/
def edgePhase (p : BitVec 3) : Option EdgePhase :=
  if p = 0#3 then some .seekSkip
  else if p = 1#3 then some .seekHigh
  else if p = 2#3 then some .seekLow
  else if p = 3#3 then some .preCollect
  else if p = 4#3 then some .collecting
  else none

/-- `PHASE` values of MFILL and MBITS (10_state.md R22, 45_manchester.md R241). -/
inductive ManPhase
  | seekHigh | seekLow | data
deriving DecidableEq, Repr

/-- The encoding of the Manchester states (45_manchester.md R241). -/
def manPhaseBits : ManPhase → BitVec 3
  | .seekHigh => 0#3
  | .seekLow => 1#3
  | .data => 2#3

/-- The Manchester state, if `PHASE` is one of its three values. -/
def manPhase (p : BitVec 3) : Option ManPhase :=
  if p = 0#3 then some .seekHigh
  else if p = 1#3 then some .seekLow
  else if p = 2#3 then some .data
  else none

/-- EDGE: the high crossing was found (10_state.md R40). -/
def edgeHighFound (s : State) : Bool := decide ((edgePhaseBits .seekLow).toNat ≤ s.phaseReg.toNat)

/-- EDGE: the low crossing was found (10_state.md R40). -/
def edgeLowFound (s : State) : Bool := decide ((edgePhaseBits .preCollect).toNat ≤ s.phaseReg.toNat)

/-- EDGE: the start of collection was found (10_state.md R40). -/
def edgeStartFound (s : State) : Bool := decide (s.phaseReg = edgePhaseBits .collecting)

/-- MFILL, MBITS: the first high peak was found (10_state.md R40). -/
def manHighFound (s : State) : Bool := decide ((manPhaseBits .seekLow).toNat ≤ s.phaseReg.toNat)

/-- MFILL, MBITS: both peaks were found (10_state.md R40). -/
def manBothFound (s : State) : Bool := decide (s.phaseReg = manPhaseBits .data)

end Sys2Proof.Machine
end

