-- ==== Sys2Proof/Machine/BitPacker.lean ====
section
/-! DEFINITION. The BitPacker: BPRESET and BPW (40_bitpacker.md). -/

namespace Sys2Proof.Machine

/-- Bit number `p` of the buffer: bit `7 - p % 8` of byte `p / 8` (20_memory.md R72). -/
def bufBit (m : Memory) (p : Nat) : Bool := (m.read (p / 8)).getLsbD (7 - p % 8)

/-- BPRESET (40_bitpacker.md R131). -/
def bpreset (s : State) : State := { s with bp := { position := 0#32, numBits := 0#32 } }

/-- A byte with bit `b` set or cleared, the other seven kept (40_bitpacker.md R132). -/
def withBit (old : Byte) (b : Nat) (bit : Bool) : Byte :=
  if bit then old ||| (1#8 <<< b) else old &&& ~~~(1#8 <<< b)

/-- BPW: bit `7 - position % 8` of byte `position / 8`, then the cursor moves (40_bitpacker.md R132). -/
def bpw (bit : Bool) (s : State) : Except Fault State :=
  let a := s.bp.position.toNat / 8
  let b := 7 - s.bp.position.toNat % 8
  match memRead s a with
  | .error f => .error f
  | .ok old =>
    match memWrite s a (withBit old b bit) with
    | .error f => .error f
    | .ok t => .ok { t with bp := { position := s.bp.position + 1#32, numBits := s.bp.numBits + 1#32 } }

/-- BPW repeated, first bit first (40_bitpacker.md R134). -/
def bpwAll : List Bool → State → Except Fault State
  | [], s => .ok s
  | bit :: bits, s =>
    match bpw bit s with
    | .error f => .error f
    | .ok t => bpwAll bits t

/-- The `n` most significant bits of an accepted value, `v[7]` first (42_acquire.md R181). -/
def topBits (v : Byte) (n : Nat) : List Bool := (List.range n).map fun k => v.getLsbD (7 - k)

end Sys2Proof.Machine
end

