-- ==== Sys2Proof/Machine/SamplingConfig.lean ====
section
/-! DEFINITION. CFGMERGE and CFGRD (41_config.md). -/

namespace Sys2Proof.Machine

/-- 41_config.md R141. -/
def mergeDecimation (p : Int) (cur : BitVec 3) : BitVec 3 := if 1 ≤ p ∧ p ≤ 7 then BitVec.ofInt 3 p else cur

/-- 41_config.md R142. -/
def mergeBitsPerSample (p : Int) (cur : BitVec 4) : BitVec 4 := if 1 ≤ p ∧ p ≤ 8 then BitVec.ofInt 4 p else cur

/-- A boolean field takes exactly 0 and 1 (41_config.md R143, R147). -/
def mergeFlag (p : Int) (cur : Bool) : Bool := if p = 0 then false else if p = 1 then true else cur

/-- 41_config.md R144. -/
def mergeDivisor (p : Int) (cur : BitVec 8) : BitVec 8 := if 19 ≤ p ∧ p ≤ 255 then BitVec.ofInt 8 p else cur

/-- The trigger threshold and the skip count take 0 and above (41_config.md R145, R146). -/
def mergeNonNegative (p : Int) (cur : Word) : Word := if 0 ≤ p then BitVec.ofInt 32 p else cur

/-- The seven independent tests (41_config.md R141 to R148). -/
def mergeConfig (x : Args) (c : SamplingConfig) : SamplingConfig where
  decimation := mergeDecimation (sext32 x.arg0) c.decimation
  bitsPerSample := mergeBitsPerSample (sext32 x.arg1) c.bitsPerSample
  averaging := mergeFlag (sext32 x.arg2) c.averaging
  divisor := mergeDivisor (sext32 x.arg3) c.divisor
  triggerThreshold := mergeNonNegative (sext32 x.arg4) c.triggerThreshold
  samplesToSkip := mergeNonNegative (sext32 x.arg5) c.samplesToSkip
  verbose := mergeFlag (sext32 x.arg6) c.verbose

/-- `DIAG(CONFIG)` when the merged `verbose` is set (41_config.md R147). -/
def reportConfig (s : State) : State := if s.cfg.verbose then s.emit (.diag .config) else s

/-- The effect of CFGMERGE (41_config.md R140, R149). -/
def acceptCfgmerge (s : State) : State := completeInstant (reportConfig { s with cfg := mergeConfig s.args s.cfg })

/-- CFGMERGE written to `CMD` (41_config.md R140). -/
def execCfgmerge (s : State) : Host.Outcome State Fault Refusal := acceptWhenIdle .cfgmerge acceptCfgmerge s

/-- The seven fields in the CFGMERGE order, zero-extended (41_config.md R150). -/
def configArgs (c : SamplingConfig) : Args where
  arg0 := c.decimation.setWidth 32
  arg1 := c.bitsPerSample.setWidth 32
  arg2 := flagBit 32 c.averaging
  arg3 := c.divisor.setWidth 32
  arg4 := c.triggerThreshold
  arg5 := c.samplesToSkip
  arg6 := flagBit 32 c.verbose

/-- The effect of CFGRD (41_config.md R150). -/
def acceptCfgrd (s : State) : State := completeInstant { s with args := configArgs s.cfg }

/-- CFGRD written to `CMD` (41_config.md R150). -/
def execCfgrd (s : State) : Host.Outcome State Fault Refusal := acceptWhenIdle .cfgrd acceptCfgrd s

end Sys2Proof.Machine
end

