-- ==== Sys2Proof/Machine/Acquire.lean ====
section
/-! DEFINITION. The generic acquisition engine: ACQ and the micro-operations GATE, SKIP, DECIM and LOG
(42_acquire.md). -/

namespace Sys2Proof.Machine

/-- The start of a call of the ACQ family, after its operands are latched (42_acquire.md R160): trigger, counters and
SampleStore, BPRESET, `CAUSE` and `BUSY`. -/
def startAcquisition (skip : Word) (s : State) : State :=
  beginCall (bpreset
    { s with
      acq :=
        { armed := decide (0 < s.lat.thr.toInt)
          cancelCnt := 0#32
          raceCnt := 0#32
          skipLeft := skip
          remainingBudget := s.lat.budget
          decCounter := 0#32
          runningSum := 0#40
          totalAccepted := 0#32 } })

/-- The acceptance of ACQ (42_acquire.md R160). -/
def acceptAcq (s : State) : State := startAcquisition (skipOperand s.args.arg6) { s with lat := acqLatches s }

/-- ACQ written to `CMD` (42_acquire.md R160). -/
def execAcq (s : State) : Host.Outcome State Fault Refusal := acceptWhenIdle .acq acceptAcq s

/-! ### LOG -/

/-- The byte-aligned fast path (42_acquire.md R180). -/
def storeByte (v : Byte) (s : State) : Except Fault State :=
  match memWrite s s.acq.totalAccepted.toNat v with
  | .error f => .error f
  | .ok t =>
    let n := s.acq.totalAccepted + 1#32
    .ok { t with
      acq := { s.acq with totalAccepted := n }
      bp := { position := n * 8#32, numBits := n * 8#32 } }

/-- The bit-by-bit path (42_acquire.md R180, R181). -/
def storeBits (v : Byte) (s : State) : Except Fault State :=
  match bpwAll (topBits v s.lat.bps.toNat) s with
  | .error f => .error f
  | .ok t => .ok { t with acq := { t.acq with totalAccepted := t.acq.totalAccepted + 1#32 } }

/-- The store of LOG, on the path `L_BPS` selects (42_acquire.md R180). -/
def storeSample (v : Byte) (s : State) : Except Fault State :=
  if s.lat.bps = 8#4 then storeByte v s else storeBits v s

/-- The budget of LOG: DONE in the step whose sample fills it (42_acquire.md R180). -/
def countBudget (s : State) : Flow :=
  let t := { s with acq := { s.acq with remainingBudget := s.acq.remainingBudget - 1#32 } }
  if t.acq.remainingBudget = 0#32 then .terminate .done t else .pass t

/-- LOG(v) (42_acquire.md R180). -/
def logValue (v : Byte) (s : State) : Flow := (Flow.ofAccess (storeSample v s)).andThen countBudget

/-! ### DECIM -/

/-- The value of a completed group: the truncated mean, or the most recent raw sample (42_acquire.md R178). -/
def groupValue (lat : Latches) (sum : BitVec 40) (sample : Byte) : Byte :=
  if lat.avg ∧ 1 < lat.dec.toNat then BitVec.ofNat 8 (sum.toNat / lat.dec.toNat) else sample

/-- The group is complete: the value is taken, the accumulator cleared, the value logged (42_acquire.md R178). -/
def closeGroup (sample : Byte) (s : State) : Flow :=
  logValue (groupValue s.lat s.acq.runningSum sample) { s with acq := { s.acq with runningSum := 0#40 } }

/-- DECIM(sample) (42_acquire.md R178). -/
def decimate (sample : Byte) (s : State) : Flow :=
  let r := { s.acq with runningSum := s.acq.runningSum + sample.setWidth 40 }
  if 1 < s.lat.dec.toNat then
    let n := r.decCounter + 1#32
    if n.toNat < s.lat.dec.toNat then .discard { s with acq := { r with decCounter := n } }
    else closeGroup sample { s with acq := { r with decCounter := 0#32 } }
  else closeGroup sample { s with acq := r }

/-! ### SKIP and GATE -/

/-- SKIP(sample) (42_acquire.md R176). -/
def skipSample (s : State) : Flow :=
  if 0 < s.acq.skipLeft.toInt then
    .discard { s with acq := { s.acq with skipLeft := s.acq.skipLeft - 1#32 } }
  else .pass s

/-- `dev = zext_8(sample) - 128` (42_acquire.md R170). -/
def deviation (sample : Byte) : Int := (sample.toNat : Int) - (Config.mid : Int)

/-- The closed band of the trigger (42_acquire.md R172, conflict C2). -/
def inBand (thr : Word) (sample : Byte) : Bool :=
  decide (-thr.toInt ≤ deviation sample) && decide (deviation sample ≤ thr.toInt)

/-- GATE(sample) (42_acquire.md R172). -/
def gate (sample : Byte) (s : State) : Flow :=
  if s.acq.armed then
    if inBand s.lat.thr sample then
      if s.lat.cancel = 0#32 then .discard s
      else
        let n := s.acq.cancelCnt + 1#32
        let t := { s with acq := { s.acq with cancelCnt := n } }
        if n = s.lat.cancel then .terminate .noSignal t else .discard t
    else .pass { s with acq := { s.acq with armed := false } }
  else .pass s

/-! ### One iteration -/

/-- PROCESS(sample): budget, GATE, SKIP, DECIM (42_acquire.md R167, R168, conflict C1). -/
def processSample (sample : Byte) (s : State) : Flow :=
  if s.acq.remainingBudget = 0#32 then .terminate .done s
  else ((gate sample s).andThen skipSample).andThen (decimate sample)

/-- Line 2 of 42_acquire.md R162: the periodic race check while the trigger is armed (R166). -/
def raceCheck (inp : Input) (s : State) : Flow :=
  if s.acq.armed then
    let n := s.acq.raceCnt + 1#32
    if n = s.params.racePeriod then
      let t := { s with acq := { s.acq with raceCnt := 0#32 } }
      if inp.dataAvail then .terminate .raceAbort t else .pass t
    else .pass { s with acq := { s.acq with raceCnt := n } }
  else .pass s

/-- Line 4 of 42_acquire.md R162: transmit-ready is read and has no effect (R165). -/
def pollTransmit (_txReady : Bool) (s : State) : State := s

/-- Lines 3 to 5 of 42_acquire.md R162. -/
def kickAndProcess (inp : Input) (s : State) : Flow :=
  let t := pollTransmit inp.txReady (s.emit .wdtKick)
  if inp.rxReady then processSample inp.sample t.consumeSample else .pass t

/-- The iteration of the ACQ family (42_acquire.md R162). -/
def iterateAcquisition (inp : Input) (s : State) : Flow :=
  if inp.abort then .terminate .userAbort s else (raceCheck inp s).andThen (kickAndProcess inp)

/-- A poll iteration of ACQ (42_acquire.md R162, R185). -/
def pollAcq (inp : Input) (s : State) : Host.Outcome State Fault Refusal := (iterateAcquisition inp s).finish

end Sys2Proof.Machine
end

