-- ==== Sys2Proof/Machine/FrontEnd.lean ====
section
/-! DEFINITION. Front-end sequencing: ARM, READLF, READER and SNIFF (43_frontend.md). -/

namespace Sys2Proof.Machine

/-- The arming sequence (43_frontend.md R200), its divisor already effective. -/
def armEvents (divisor : BitVec 8) (field : Bool) : List Event :=
  [.feLoadBitstream, .feSetDivisor divisor, .feSetMode field, .feRoutePeak]
    ++ (if field then [.waitSettle] else []) ++ [.feStartClock]

/-- The effect of ARM (43_frontend.md R200; operands 30_encoding.md R114). -/
def acceptArm (s : State) : State :=
  completeInstant (s.emitAll (armEvents (effDiv s.params s.args.arg0) (truth s.args.arg1)))

/-- ARM written to `CMD` (43_frontend.md R200). -/
def execArm (s : State) : Host.Outcome State Fault Refusal := acceptWhenIdle .arm acceptArm s

/-- The acceptance of the READLF family (43_frontend.md R205): operands latched from `CFG`, the front end armed, the
working registers reset as for ACQ. -/
def startFrontEndCall (field verbose : Bool) (budget : Word) (s : State) : State :=
  startAcquisition s.cfg.samplesToSkip
    (State.emitAll { s with lat := cfgLatches field verbose budget s }
      (armEvents (effDiv s.params (s.cfg.divisor.setWidth 32)) field))

/-- The acceptance of READLF (43_frontend.md R205). -/
def acceptReadlf (s : State) : State :=
  startFrontEndCall (truth s.args.arg0) (truth s.args.arg1) s.args.arg2 s

/-- READLF written to `CMD` (43_frontend.md R205). -/
def execReadlf (s : State) : Host.Outcome State Fault Refusal := acceptWhenIdle .readlf acceptReadlf s

/-- The acceptance of READER: READLF with the field on (43_frontend.md R210). -/
def acceptReader (s : State) : State := startFrontEndCall true (truth s.args.arg0) s.args.arg1 s

/-- READER written to `CMD` (43_frontend.md R210). -/
def execReader (s : State) : Host.Outcome State Fault Refusal := acceptWhenIdle .reader acceptReader s

/-- The acceptance of SNIFF: READLF with the field off, verbose, unbounded (43_frontend.md R211). -/
def acceptSniff (s : State) : State := startFrontEndCall false true 0xFFFFFFFF#32 s

/-- SNIFF written to `CMD` (43_frontend.md R211). -/
def execSniff (s : State) : Host.Outcome State Fault Refusal := acceptWhenIdle .sniff acceptSniff s

/-- A poll iteration of READLF (43_frontend.md R206, R207). -/
def pollReadlf (inp : Input) (s : State) : Host.Outcome State Fault Refusal := (iterateAcquisition inp s).finish

/-- A poll iteration of READER (43_frontend.md R206, R210). -/
def pollReader (inp : Input) (s : State) : Host.Outcome State Fault Refusal := (iterateAcquisition inp s).finish

/-- A poll iteration of SNIFF (43_frontend.md R206, R211). -/
def pollSniff (inp : Input) (s : State) : Host.Outcome State Fault Refusal := (iterateAcquisition inp s).finish

end Sys2Proof.Machine
end

