-- ==== Sys2Proof/Machine/EdgeCapture.lean ====
section
/-! DEFINITION. Edge capture: EDGE (44_edge_capture.md). -/

namespace Sys2Proof.Machine

/-- The acceptance of EDGE (44_edge_capture.md R220). -/
def acceptEdge (s : State) : State :=
  beginCall
    { s with
      lat := { s.lat with limit := clampToCap s s.args.arg0 }
      idx := 0#32
      edge := { lastSample := 0#8, skipCnt := 0#32 }
      phaseReg := edgePhaseBits .seekSkip }

/-- EDGE written to `CMD` (44_edge_capture.md R220). -/
def execEdge (s : State) : Host.Outcome State Fault Refusal := acceptWhenIdle .edge acceptEdge s

/-- `MemWrite(idx, 1, v) ; idx <- idx + 1` of the specialized engines (44_edge_capture.md R227, R228; 45_manchester.md
R249, R256). -/
def putByte (v : Byte) (s : State) : Flow :=
  (Flow.ofAccess (memWrite s s.idx.toNat v)).andThen fun t => .pass { t with idx := t.idx + 1#32 }

/-- `skipCnt <- skipCnt + 1` (44_edge_capture.md R229). -/
def countSkip (s : State) : State := { s with edge := { s.edge with skipCnt := s.edge.skipCnt + 1#32 } }

/-- `PHASE = SEEK_HIGH` or `SEEK_SKIP` (44_edge_capture.md R224, R225). -/
def edgeSeekHigh (sample : Byte) (s : State) : Flow :=
  if Config.edgeHi < sample.toNat then .pass { s with phaseReg := edgePhaseBits .seekLow }
  else .pass { countSkip s with phaseReg := edgePhaseBits .seekHigh }

/-- `PHASE = SEEK_LOW` (44_edge_capture.md R226). -/
def edgeSeekLow (sample : Byte) (s : State) : Flow :=
  if sample.toNat < Config.edgeLo then
    .pass { s with edge := { s.edge with lastSample := sample }, phaseReg := edgePhaseBits .preCollect }
  else .pass (countSkip s)

/-- The second write of the transition, only when the limit leaves room (44_edge_capture.md R227). -/
def putTransition (sample : Byte) (s : State) : Flow :=
  if s.idx.toNat < s.lat.limit.toNat then putByte sample s else .pass s

/-- `PHASE = PRE_COLLECT` (44_edge_capture.md R227). -/
def edgePreCollect (sample : Byte) (s : State) : Flow :=
  if Config.edgeLo + Config.edgeTol < sample.toNat then
    ((putByte s.edge.lastSample s).andThen (putTransition sample)).andThen fun t =>
      .pass { t with phaseReg := edgePhaseBits .collecting }
  else
    let t := countSkip s
    if sample.toNat < Config.edgeLo then .pass { t with edge := { t.edge with lastSample := sample } } else .pass t

/-- `PHASE = COLLECTING` (44_edge_capture.md R228). -/
def edgeCollect (sample : Byte) (s : State) : Flow := putByte sample s

/-- Line 5 of 44_edge_capture.md R222: the rule of the current `PHASE`. -/
def edgeSample (sample : Byte) (s : State) : Flow :=
  match edgePhase s.phaseReg with
  | some .seekSkip => edgeSeekHigh sample s
  | some .seekHigh => edgeSeekHigh sample s
  | some .seekLow => edgeSeekLow sample s
  | some .preCollect => edgePreCollect sample s
  | some .collecting => edgeCollect sample s
  | none => .fault .noPhase

/-- The iteration of EDGE (44_edge_capture.md R222). -/
def iterateEdge (inp : Input) (s : State) : Flow :=
  if s.lat.limit.toNat ≤ s.idx.toNat then .terminate .done s
  else if Config.edgeSkipMax ≤ s.edge.skipCnt.toNat then .terminate .noEdge s
  else if inp.abort then .terminate .userAbort s
  else
    let t := s.emit .wdtKick
    if inp.rxReady then edgeSample inp.sample t.consumeSample else .pass t

/-- A poll iteration of EDGE (44_edge_capture.md R222, R230). -/
def pollEdge (inp : Input) (s : State) : Host.Outcome State Fault Refusal := (iterateEdge inp s).finish

end Sys2Proof.Machine
end

