-- ==== Sys2Proof/Machine/Manchester.lean ====
section
/-! DEFINITION. Manchester capture: MFILL, MBITS and QUANT (45_manchester.md). -/

namespace Sys2Proof.Machine

/-- The acceptance MFILL and MBITS share (45_manchester.md R240, R254). -/
def startManchester (s : State) : State :=
  beginCall
    { s with
      lat := { s.lat with limit := clampToCap s s.args.arg0 }
      idx := 0#32
      man :=
        { noiseCnt := 0#32, hold := 0#8, curr := false, prev := false, period := BitVec.ofNat 32 Config.t1 }
      phaseReg := manPhaseBits .seekHigh }

/-- MFILL written to `CMD` (45_manchester.md R240). -/
def execMfill (s : State) : Host.Outcome State Fault Refusal := acceptWhenIdle .mfill startManchester s

/-- MBITS written to `CMD` (45_manchester.md R254). -/
def execMbits (s : State) : Host.Outcome State Fault Refusal := acceptWhenIdle .mbits startManchester s

/-- QUANT, with its high and low values and the value held (45_manchester.md R248). -/
def quantize {α : Type} (high low : α) (sample : Byte) (held : α) : α :=
  if Config.manHi < sample.toNat then high else if sample.toNat < Config.manLo then low else held

/-- `noiseCnt <- noiseCnt + 1` (45_manchester.md R244, R245). -/
def countNoise (s : State) : State := { s with man := { s.man with noiseCnt := s.man.noiseCnt + 1#32 } }

/-- `PHASE = M_SEEK_HIGH` (45_manchester.md R244). -/
def manSeekHigh (sample : Byte) (s : State) : Flow :=
  if Config.manHi < sample.toNat then
    .pass
      { s with
        man := { s.man with noiseCnt := 0#32, hold := 255#8, prev := s.man.curr, curr := true }
        phaseReg := manPhaseBits .seekLow }
  else .pass (countNoise s)

/-- `PHASE = M_SEEK_LOW` (45_manchester.md R245). -/
def manSeekLow (sample : Byte) (s : State) : Flow :=
  if sample.toNat < Config.manLo then
    .pass
      { s with
        man :=
          { noiseCnt := 0#32, hold := 0#8, prev := s.man.curr, curr := false, period := BitVec.ofNat 32 Config.t1 }
        phaseReg := manPhaseBits .data }
  else .pass (countNoise s)

/-- `PHASE = M_DATA` of MFILL (45_manchester.md R249). -/
def fillData (sample : Byte) (s : State) : Flow :=
  let q := quantize 255#8 0#8 sample s.man.hold
  (putByte q s).andThen fun t => .pass { t with man := { t.man with hold := q } }

/-- The one-bit register of MBITS after a data sample: an in-between sample changes neither half (45_manchester.md
R256). -/
def updateBit (sample : Byte) (m : ManRegs) : ManRegs :=
  if Config.manHi < sample.toNat then { m with prev := m.curr, curr := true }
  else if sample.toNat < Config.manLo then { m with prev := m.curr, curr := false }
  else m

/-- `PHASE = M_DATA` of MBITS (45_manchester.md R256). -/
def bitsData (sample : Byte) (s : State) : Flow :=
  let m := updateBit sample s.man
  let n := m.period - 1#32
  let t := { s with man := { m with period := n } }
  if n = 0#32 then
    (putByte (flagBit 8 m.curr) t).andThen fun u =>
      .pass { u with man := { u.man with period := BitVec.ofNat 32 Config.t1 } }
  else .pass t

/-- Line 5 of 45_manchester.md R242: the rule of the current `PHASE`, with the variant's data rule. -/
def manSample (data : Byte → State → Flow) (sample : Byte) (s : State) : Flow :=
  match manPhase s.phaseReg with
  | some .seekHigh => manSeekHigh sample s
  | some .seekLow => manSeekLow sample s
  | some .data => data sample s
  | none => .fault .noPhase

/-- The iteration of MFILL and MBITS (45_manchester.md R242). -/
def iterateManchester (data : Byte → State → Flow) (inp : Input) (s : State) : Flow :=
  if s.lat.limit.toNat ≤ s.idx.toNat then .terminate .done s
  else if Config.noiseMax < s.man.noiseCnt.toNat then .terminate .noiseTimeout s
  else if inp.abort then .terminate .userAbort s
  else
    let t := s.emit .wdtKick
    if inp.rxReady then manSample data inp.sample t.consumeSample else .pass t

/-- A poll iteration of MFILL (45_manchester.md R242, R249, R253). -/
def pollMfill (inp : Input) (s : State) : Host.Outcome State Fault Refusal :=
  (iterateManchester fillData inp s).finish

/-- A poll iteration of MBITS (45_manchester.md R242, R256, R258). -/
def pollMbits (inp : Input) (s : State) : Host.Outcome State Fault Refusal :=
  (iterateManchester bitsData inp s).finish

end Sys2Proof.Machine
end

