-- ==== Sys2Proof/Machine/Poll.lean ====
section
/-! DEFINITION. The poll iteration: which engine runs is decided by `BUSY` and `OP` (10_state.md R21). -/

namespace Sys2Proof.Machine

/-- One iteration of the engine named by `OP`. -/
def runEngine (i : Instr) (inp : Input) (s : State) : Host.Outcome State Fault Refusal :=
  match i with
  | .cfgmerge => .fault .noEngine
  | .cfgrd => .fault .noEngine
  | .acq => pollAcq inp s
  | .readlf => pollReadlf inp s
  | .reader => pollReader inp s
  | .sniff => pollSniff inp s
  | .arm => .fault .noEngine
  | .edge => pollEdge inp s
  | .mfill => pollMfill inp s
  | .mbits => pollMbits inp s

/-- A poll iteration with input word `w`; with `BUSY = 0` it changes nothing, reads nothing and emits nothing
(00_scope.md R15). -/
def pollIteration (w : BitVec 12) (s : State) : Host.Outcome State Fault Refusal :=
  if s.busy then
    match decodeOpcode s.op with
    | some i => runEngine i (decodeInput w) s
    | none => .fault .noEngine
  else .next s

end Sys2Proof.Machine
end

