-- ==== Sys2Proof/Machine/Dispatch.lean ====
section
/-! DEFINITION. The commands: what a legal command word does in the host access that writes it (30_encoding.md R101). -/

namespace Sys2Proof.Machine

-- A legal command word naming `i`, written to `CMD` (30_encoding.md R101).
def exec (i : Instr) (s : State) : Host.Outcome State Fault Refusal :=
  match i with
  | .cfgmerge => Sys2Proof.Machine.execCfgmerge s
  | .cfgrd => Sys2Proof.Machine.execCfgrd s
  | .acq => Sys2Proof.Machine.execAcq s
  | .readlf => Sys2Proof.Machine.execReadlf s
  | .reader => Sys2Proof.Machine.execReader s
  | .sniff => Sys2Proof.Machine.execSniff s
  | .arm => Sys2Proof.Machine.execArm s
  | .edge => Sys2Proof.Machine.execEdge s
  | .mfill => Sys2Proof.Machine.execMfill s
  | .mbits => Sys2Proof.Machine.execMbits s

end Sys2Proof.Machine
end

