-- ==== Sys2Proof/Machine/HostAccess.lean ====
section
/-! DEFINITION. What one move of the environment does: host accesses (00_scope.md R15, 10_state.md R46, 20_memory.md
R83), poll iterations, and the offset remover (42_acquire.md R184). -/

namespace Sys2Proof.Machine

/-- The value a host read of a register returns (10_state.md R46 to R50). -/
def readReg (r : HostReg) (s : State) : Word :=
  match r with
  | .cmd => 0#32
  | .status => statusWord s
  | .result => s.result
  | .arg i => s.args.get i
  | .capr => s.params.cap.setWidth 32

/-- A host read of register number `n`; a number above 10 reads 0 (10_state.md R46). -/
def hostRead (n : Nat) (s : State) : State :=
  match decodeReg n with
  | some r => { s with readData := readReg r s }
  | none => { s with readData := 0#32 }

/-- A host write of a word to `CMD` (30_encoding.md R101): an illegal word sets `ILL`, a legal one is executed. -/
def writeCommand (w : Word) (s : State) : Host.Outcome State Fault Refusal :=
  match decode w with
  | .ok i => exec i s
  | .error _ => .next s.flagIllegal

/-- A host write to register number `n`: only `CMD` and `ARG` take it (10_state.md R46, R50;
93_implementation_defined.md U10). -/
def hostWrite (n : Nat) (w : Word) (s : State) : Host.Outcome State Fault Refusal :=
  match decodeReg n with
  | some .cmd => writeCommand w s
  | some .status => .next s
  | some .result => .next s
  | some (.arg i) => .next { s with args := s.args.set i w }
  | some .capr => .next s
  | none => .next s

/-- A host read of one buffer byte, at any time and without side effect (20_memory.md R77, R83). -/
def hostReadByte (a : Nat) (s : State) : Host.Outcome State Fault Refusal :=
  if a < s.cap then .next { s with readData := (s.buf.read a).setWidth 32 } else .fault .hostReadOutside

/-- The bytes of the region `[0, n)` of the buffer. -/
def region (m : Memory) (n : Nat) : List Byte := (List.range n).map m.read

/-- The bytes at offsets 0 to `n - 1` replaced, the first `n` values of `f` in order. -/
def fillRegion (f : Nat → Byte) : Nat → Memory → Memory
  | 0, m => m
  | n + 1, m => (fillRegion f n m).write n (f n)

/-- The offset remover acts: the bytes of the region it was called over, as far as they are in the buffer, become those
the OPEN function `PostOffset` gives (20_memory.md R89, 42_acquire.md R184, log 9). Without a call that is still due
nothing happens. -/
def removeOffset (s : State) : State :=
  match s.postDue with
  | none => s
  | some n =>
    let k := min n.toNat s.cap
    { s with buf := fillRegion (Config.postOffset (region s.buf k)) k s.buf, postDue := none }

/-- One move of the environment. -/
def perform (m : Move) (s : State) : Host.Outcome State Fault Refusal :=
  match m with
  | .read n => .next (hostRead n s)
  | .write n w => hostWrite n w s
  | .readByte a => hostReadByte a s
  | .poll w => pollIteration w s
  | .removeOffset => .next (removeOffset s)

/-- A poll iteration whose input the environment's list does not give: the input is a free value (log 5). While idle
nothing is read (00_scope.md R15). -/
def freePoll (s : State) : Host.Outcome State Fault Refusal :=
  if s.busy then pollIteration (Config.freeInput s.freeIndex) { s with freeIndex := s.freeIndex + 1 } else .next s

/-- The host writes the command word whose low `nbits` bits are those of `w` to `CMD` before anything else it does. -/
def queueCommand (nbits w : Nat) (s : State) : State :=
  { s with pending := .write 0 (BitVec.ofNat 32 (w % 2 ^ nbits)) :: s.pending }

end Sys2Proof.Machine
end

