-- ==== Sys2Proof/Machine/Step.lean ====
section
/-! DEFINITION. The step of LFACQ (00_scope.md R15): the environment's next move, or, where none is given, a poll
iteration with a free input. -/

namespace Sys2Proof.Machine

/-- One step (00_scope.md R15). -/
def step (s : State) : Host.Outcome State Fault Refusal :=
  match s.pending with
  | [] => freePoll s
  | m :: rest => perform m { s with pending := rest }

/-- The command word placed where the block takes its commands from: the host's next access writes it to `CMD`
(30_encoding.md R100, log 4). -/
def State.withFetchWord (s : State) (nbits w : Nat) : State := queueCommand nbits w s

end Sys2Proof.Machine
end

