-- ==== Sys2Proof/Safety.lean ====
section
/-! DEFINITION. What a legal state is: the invariants the spec states of its registers, by unit, and their conjunction
`State.Inv`. A claim that could fail only in states no run reaches takes `State.Inv` as a premise. -/

namespace Sys2Proof.Machine

/-- A call of command property `p` is running. -/
def inCall (p : Instr → Bool) (s : State) : Prop := s.busy = true ∧ opIs p s = true

/-- Every opcode property the sequencer can hold: 0 after reset (10_state.md R64), else an accepted opcode, and a looping
one while `BUSY = 1` (R21). `CAUSE` is 0 during a call (R48) and no offset removal is due then (log 9). -/
structure SequencerInv (s : State) : Prop where
  op_named : s.op = 0#8 ∨ ∃ i : Instr, s.op = i.opcode
  busy_looping : s.busy = true → opIs Instr.looping s = true
  busy_cause : s.busy = true → s.cause = .none
  busy_not_due : s.busy = true → s.postDue = none

/-- The values `PHASE` may take for each `OP` (10_state.md R22). -/
structure PhaseInv (s : State) : Prop where
  edge_phase : opIs (fun i => decide (i = .edge)) s = true → s.phaseReg.toNat ≤ 4
  man_phase : opIs (fun i => decide (i = .mfill) || decide (i = .mbits)) s = true → s.phaseReg.toNat ≤ 2
  other_phase : opIs Instr.looping s = false → s.phaseReg = 0#3

/-- The buffer is in canonical form and inside its capacity (20_memory.md R70), and so is a region still due. -/
structure BufferInv (s : State) : Prop where
  wf : s.buf.wf = true
  within : s.buf.within s.cap = true
  due : ∀ n, s.postDue = some n → n.toNat ≤ s.cap

/-- No configuration field is outside its domain (10_state.md R51 to R58). -/
structure ConfigInv (c : SamplingConfig) : Prop where
  decimation : 1 ≤ c.decimation.toNat
  bits_pos : 1 ≤ c.bitsPerSample.toNat
  bits_le : c.bitsPerSample.toNat ≤ 8
  divisor : 19 ≤ c.divisor.toNat
  threshold : 0 ≤ c.triggerThreshold.toInt
  skip : 0 ≤ c.samplesToSkip.toInt

/-- A call of the ACQ family (10_state.md R23 to R32, 42_acquire.md R173, R179, R182). -/
structure AcqInv (s : State) : Prop where
  dec_pos : 1 ≤ s.lat.dec.toNat
  bps_pos : 1 ≤ s.lat.bps.toNat
  bps_le : s.lat.bps.toNat ≤ 8
  budget_le : s.lat.budget.toNat ≤ s.cap
  balance : s.acq.remainingBudget.toNat + s.acq.totalAccepted.toNat = s.lat.budget.toNat
  live : s.acq.remainingBudget = 0#32 → s.lat.budget = 0#32
  group : s.acq.decCounter.toNat < s.lat.dec.toNat
  sum : s.acq.runningSum.toNat ≤ 255 * s.acq.decCounter.toNat
  cursor : s.bp.position = s.bp.numBits
  bits : s.bp.numBits.toNat = s.acq.totalAccepted.toNat * s.lat.bps.toNat
  skip_nonneg : 0 ≤ s.acq.skipLeft.toInt
  armed_thr : s.acq.armed = true → 0 < s.lat.thr.toInt
  armed_race : s.acq.armed = true → s.acq.raceCnt.toNat < s.params.racePeriod.toNat
  cancel : s.lat.cancel ≠ 0#32 → s.acq.cancelCnt.toNat < s.lat.cancel.toNat
  waiting : s.acq.armed = true ∨ 0 < s.acq.skipLeft.toInt →
    s.acq.totalAccepted = 0#32 ∧ s.acq.decCounter = 0#32

/-- A call of EDGE (10_state.md R33 to R35, 44_edge_capture.md R226 to R230). -/
structure EdgeInv (s : State) : Prop where
  limit_le : s.lat.limit.toNat ≤ s.cap
  idx_le : s.idx.toNat ≤ s.lat.limit.toNat
  skip_le : s.edge.skipCnt.toNat ≤ Config.edgeSkipMax
  seeking : s.phaseReg.toNat ≤ 3 → s.idx = 0#32
  collecting : s.phaseReg.toNat = 4 → 1 ≤ s.idx.toNat ∧ s.edge.skipCnt.toNat < Config.edgeSkipMax
  remembered : s.phaseReg.toNat = 3 → s.edge.lastSample.toNat < Config.edgeLo

/-- A call of MFILL or MBITS (10_state.md R33, R36 to R39, 45_manchester.md R246). -/
structure ManInv (s : State) : Prop where
  limit_le : s.lat.limit.toNat ≤ s.cap
  idx_le : s.idx.toNat ≤ s.lat.limit.toNat
  noise_le : s.man.noiseCnt.toNat ≤ Config.noiseMax + 1
  seeking : s.phaseReg.toNat < 2 → s.idx = 0#32
  data_noise : s.phaseReg.toNat = 2 → s.man.noiseCnt = 0#32
  hold : s.man.hold = 0#8 ∨ s.man.hold = 255#8
  period_pos : 1 ≤ s.man.period.toNat
  period_le : s.man.period.toNat ≤ Config.t1

/-- A legal state. -/
structure State.Inv (s : State) : Prop where
  sequencer : SequencerInv s
  phase : PhaseInv s
  buffer : BufferInv s
  params : s.params.wf = true
  config : ConfigInv s.cfg
  acq : inCall Instr.acqFamily s → AcqInv s
  edge : inCall (fun i => decide (i = .edge)) s → EdgeInv s
  man : inCall (fun i => decide (i = .mfill) || decide (i = .mbits)) s → ManInv s

/-- Several poll iterations in a row, stopping at the first that does not answer a next state. -/
def polls : List (BitVec 12) → State → Host.Outcome State Fault Refusal
  | [], s => .next s
  | w :: ws, s =>
    match pollIteration w s with
    | .next t => polls ws t
    | .fault e => .fault e
    | .refused r => .refused r

/-- Samples fed to DECIM one after another, as long as none completes a group (42_acquire.md R178). -/
def feedDecimator : List Byte → State → Option State
  | [], s => some s
  | x :: xs, s =>
    match decimate x s with
    | .pass _ => none
    | .discard t => feedDecimator xs t
    | .terminate _ _ => none
    | .fault _ => none

/-- The class held after a run of data samples of MBITS: that of the last sample above 133 or below 123, or the class
held before (45_manchester.md R257). -/
def lastClass (ws : List (BitVec 12)) (held : Bool) : Bool :=
  ws.foldl
    (fun c w =>
      if 133 < (decodeInput w).sample.toNat then true
      else if (decodeInput w).sample.toNat < 123 then false
      else c) held

end Sys2Proof.Machine
end

