-- ==== Sys2Proof/Certificates/Slice0/Obligations.lean ====
section
/-! DEFINITION. The statements for the provers, each about the machine as 00_scope.md to 70_reset_and_hazards.md describe
it. "log n" is notes/assumptions/<n>.md. -/

open Sys2Proof Sys2Proof.Machine

/-! ### Words and fields -/

/-- The ten command words of 30_encoding.md R104 decode to the commands they stand for. -/
def Obligations.DecodeReadsTheTenCommandWords : Prop :=
  decode 0x00000001#32 = .ok .cfgmerge ∧ decode 0x00000002#32 = .ok .cfgrd ∧ decode 0x00000010#32 = .ok .acq ∧
  decode 0x00000011#32 = .ok .readlf ∧ decode 0x00000012#32 = .ok .reader ∧ decode 0x00000013#32 = .ok .sniff ∧
  decode 0x00000014#32 = .ok .arm ∧ decode 0x00000020#32 = .ok .edge ∧ decode 0x00000030#32 = .ok .mfill ∧
  decode 0x00000031#32 = .ok .mbits

/-- Every command's word decodes to it, and no other word does; a word with a non-zero `zero` field is illegal for that
reason, one with a reserved opcode for the other (30_encoding.md R103, R104, R116). -/
def Obligations.DecodeAndEncodeAgreeOnCommands : Prop :=
  (∀ i : Instr, decode (encode i) = .ok i) ∧
  (∀ (w : Word) (i : Instr), decode w = .ok i → w = encode i) ∧
  (∀ w : Word, decode w = .error .nonZeroUpper ↔ 2 ^ 8 ≤ w.toNat) ∧
  (∀ w : Word, decode w = .error .reservedOpcode ↔
    w.toNat < 2 ^ 8 ∧ w.toNat ∉ [0x01, 0x02, 0x10, 0x11, 0x12, 0x13, 0x14, 0x20, 0x30, 0x31])

/-- The input word and the input tuple of 30_encoding.md R112 stand for each other, bit by bit. -/
def Obligations.InputWordAndTupleAgree : Prop :=
  (∀ i : Input, decodeInput (encodeInput i) = i) ∧
  (∀ w : BitVec 12, encodeInput (decodeInput w) = w) ∧
  (∀ w : BitVec 12, (decodeInput w).sample.toNat = w.toNat % 256 ∧ (decodeInput w).rxReady = w.getLsbD 8 ∧
    (decodeInput w).txReady = w.getLsbD 9 ∧ (decodeInput w).abort = w.getLsbD 10 ∧
    (decodeInput w).dataAvail = w.getLsbD 11)

/-- A well-formed command line is its host accesses: after them the machine is where `exec` of the command takes it from
the state whose `ARG` registers hold the line's operands and, above them, what they held before (30_encoding.md R119). -/
def Obligations.CommandLineRunsAsItsAccesses : Prop :=
  ∀ (s : State) (c : CommandLine) (rest : List Move), c.wellFormed = true →
    s.pending = ((encodeLine c).map fun p => Move.write p.1 p.2) ++ rest →
    ∃ x : Args,
      (∀ k : Fin 7, x.get k = match c.operands[k.val]? with
        | some v => BitVec.ofInt 32 v
        | none => s.args.get k) ∧
      core.run (c.operands.length + 1) s = exec c.instr { s with pending := rest, args := x }

/-! ### Steps and host accesses -/

/-- When the host's next access writes to `CMD` a word that decodes to `i`, the step is `exec i` (30_encoding.md
R101). -/
def Obligations.StepRunsTheDecodedCommand : Prop :=
  ∀ (s : State) (w : Word) (rest : List Move) (i : Instr),
    s.pending = .write 0 w :: rest → decode w = .ok i → step s = exec i { s with pending := rest }

/-- A poll input given by the environment is the input of the step. Where none is given (the model's choice, log 5), a
running call reads a free input and an idle block does nothing. -/
def Obligations.StepPollsWithTheGivenOrAFreeInput : Prop :=
  (∀ (s : State) (w : BitVec 12) (rest : List Move),
    s.pending = .poll w :: rest → step s = pollIteration w { s with pending := rest }) ∧
  (∀ s : State, s.pending = [] → s.busy = true →
    step s = pollIteration (Config.freeInput s.freeIndex) { s with freeIndex := s.freeIndex + 1 }) ∧
  (∀ s : State, s.pending = [] → s.busy = false → step s = .next s)

/-- A command word with a non-zero upper field or a reserved opcode sets `ILL` and changes nothing else, busy or not
(30_encoding.md R116). -/
def Obligations.IllegalWordSetsOnlyIll : Prop :=
  ∀ (s : State) (w : Word) (rest : List Move), s.pending = .write 0 w :: rest →
    w.toNat ∉ [0x01, 0x02, 0x10, 0x11, 0x12, 0x13, 0x14, 0x20, 0x30, 0x31] →
    step s = .next { s with pending := rest, ill := true }

/-- A legal command word during a call sets `REJ` and changes nothing else (30_encoding.md R117). -/
def Obligations.RunningCallRejectsEveryCommand : Prop :=
  ∀ (s : State) (i : Instr), s.busy = true → exec i s = .next { s with rej := true }

/-- What a host read of each register number returns; it changes nothing else (10_state.md R46, R47, R49, R50). That the
value is kept in `readData` is the model's (log 8). -/
def Obligations.HostReadReturnsTheRegister : Prop :=
  ∀ (s : State) (n : Nat) (rest : List Move), s.pending = .read n :: rest →
    ∃ v : Word, step s = .next { s with pending := rest, readData := v } ∧
      (n = 0 → v = 0#32) ∧ (n = 1 → v = statusWord { s with pending := rest }) ∧ (n = 2 → v = s.result) ∧
      (∀ k : Fin 7, n = 3 + k.val → v = s.args.get k) ∧ (n = 10 → v.toNat = s.cap) ∧ (10 < n → v = 0#32)

/-- The fields of `STATUS`, with the cause codes of 60_exceptions.md R270 and the `PHASE` of the ACQ family computed from
`ARMED` and `skipLeft` (10_state.md R22, R48). -/
def Obligations.StatusWordFields : Prop :=
  ∀ s : State,
    (statusWord s).getLsbD 0 = s.busy ∧ (statusWord s).getLsbD 1 = s.ill ∧ (statusWord s).getLsbD 2 = s.rej ∧
    (statusWord s).getLsbD 3 = false ∧
    (statusWord s).extractLsb' 4 4 = (match s.cause with
      | .none => 0#4 | .done => 1#4 | .noSignal => 2#4 | .userAbort => 3#4 | .raceAbort => 4#4
      | .noEdge => 5#4 | .noiseTimeout => 6#4) ∧
    (statusWord s).extractLsb' 8 8 = s.op ∧
    (statusWord s).extractLsb' 16 3 =
      (if s.op = 0x10#8 ∨ s.op = 0x11#8 ∨ s.op = 0x12#8 ∨ s.op = 0x13#8 then
        if s.acq.armed = true then 0#3 else if 0 < s.acq.skipLeft.toInt then 1#3 else 2#3
      else s.phaseReg) ∧
    (statusWord s).extractLsb' 19 13 = 0#13

/-- A host write reaches `ARG` by number, and writes nothing at a read-only register or a number above 10 (10_state.md R46,
R50; 93_implementation_defined.md U10; log 14). -/
def Obligations.HostWriteReachesOnlyArg : Prop :=
  ∀ (s : State) (n : Nat) (v : Word) (rest : List Move), s.pending = .write n v :: rest → n ≠ 0 →
    ∃ x : Args, step s = .next { s with pending := rest, args := x } ∧
      ∀ k : Fin 7, x.get k = if n = 3 + k.val then v else s.args.get k

/-- A host read of a buffer byte returns it and has no side effect, during a call too (20_memory.md R77, R83); outside the
buffer the model faults (log 8, from 00_scope.md R13). -/
def Obligations.HostReadsABufferByte : Prop :=
  ∀ (s : State) (a : Nat) (rest : List Move), s.pending = .readByte a :: rest →
    (a < s.cap → ∃ v : Word, v.toNat = (s.buf.read a).toNat ∧ step s = .next { s with pending := rest, readData := v }) ∧
    (s.cap ≤ a → step s = .fault .hostReadOutside)

/-- With `BUSY = 0` a poll iteration changes nothing, whatever its input (00_scope.md R15). -/
def Obligations.IdlePollChangesNothing : Prop :=
  ∀ (s : State) (w : BitVec 12), s.busy = false → pollIteration w s = .next s

/-- The values 10_state.md R64 states for reset. Latches, working registers and the buffer are not spoken of: R64 leaves
them unspecified (logs 1, 2). -/
def Obligations.ResetStateAsStated : Prop :=
  State.reset.busy = false ∧ State.reset.op = 0#8 ∧ phase State.reset = 0#3 ∧ State.reset.ill = false ∧
  State.reset.rej = false ∧ State.reset.cause = .none ∧ State.reset.result = 0#32 ∧
  (∀ k : Fin 7, State.reset.args.get k = 0#32) ∧
  State.reset.cfg =
    { decimation := 1#3, bitsPerSample := 8#4, averaging := true, divisor := State.reset.params.div125k,
      triggerThreshold := 0#32, samplesToSkip := 0#32, verbose := true }

/-! ### Configuration -/

/-- CFGMERGE writes each field whose operand is in its domain and no other, reports when the merged `verbose` is set, and
completes (41_config.md R140 to R149). -/
def Obligations.CfgmergeMergesEachFieldByItself : Prop :=
  ∀ s : State, s.busy = false →
    ∃ c : SamplingConfig,
      exec .cfgmerge s = .next
        { s with
          op := 0x01#8
          phaseReg := 0#3
          cause := .done
          result := 0#32
          cfg := c
          trace := s.trace ++ (if c.verbose = true then [.diag .config] else []) } ∧
      (c.decimation.toNat : Int) =
        (if 1 ≤ s.args.arg0.toInt ∧ s.args.arg0.toInt ≤ 7 then s.args.arg0.toInt else (s.cfg.decimation.toNat : Int)) ∧
      (c.bitsPerSample.toNat : Int) =
        (if 1 ≤ s.args.arg1.toInt ∧ s.args.arg1.toInt ≤ 8 then s.args.arg1.toInt
         else (s.cfg.bitsPerSample.toNat : Int)) ∧
      c.averaging =
        (if s.args.arg2.toInt = 0 then false else if s.args.arg2.toInt = 1 then true else s.cfg.averaging) ∧
      (c.divisor.toNat : Int) =
        (if 19 ≤ s.args.arg3.toInt ∧ s.args.arg3.toInt ≤ 255 then s.args.arg3.toInt else (s.cfg.divisor.toNat : Int)) ∧
      c.triggerThreshold.toInt =
        (if 0 ≤ s.args.arg4.toInt then s.args.arg4.toInt else s.cfg.triggerThreshold.toInt) ∧
      c.samplesToSkip.toInt =
        (if 0 ≤ s.args.arg5.toInt then s.args.arg5.toInt else s.cfg.samplesToSkip.toInt) ∧
      c.verbose =
        (if s.args.arg6.toInt = 0 then false else if s.args.arg6.toInt = 1 then true else s.cfg.verbose)

/-- CFGRD copies the seven fields to `ARG`, zero-extended, in the CFGMERGE order, and changes no field (41_config.md
R150). -/
def Obligations.CfgrdCopiesTheFieldsToArg : Prop :=
  ∀ s : State, s.busy = false →
    ∃ x : Args,
      exec .cfgrd s = .next
        { s with op := 0x02#8, phaseReg := 0#3, cause := .done, result := 0#32, args := x } ∧
      x.arg0.toNat = s.cfg.decimation.toNat ∧ x.arg1.toNat = s.cfg.bitsPerSample.toNat ∧
      x.arg2.toNat = s.cfg.averaging.toNat ∧ x.arg3.toNat = s.cfg.divisor.toNat ∧
      x.arg4 = s.cfg.triggerThreshold ∧ x.arg5 = s.cfg.samplesToSkip ∧ x.arg6.toNat = s.cfg.verbose.toNat

/-- From a configuration inside its domains, CFGRD and then CFGMERGE with `ARG` untouched changes no field (the corner case
41_config.md R150 derives). -/
def Obligations.CfgrdThenCfgmergeChangesNoField : Prop :=
  ∀ s : State, s.busy = false → ConfigInv s.cfg →
    ∃ t u : State, exec .cfgrd s = .next t ∧ exec .cfgmerge t = .next u ∧ u.cfg = s.cfg

/-! ### Front end -/

/-- ARM emits the arming sequence with the effective divisor and completes (43_frontend.md R200, R201). -/
def Obligations.ArmEmitsTheArmingSequence : Prop :=
  ∀ s : State, s.busy = false →
    ∃ d : BitVec 8,
      exec .arm s = .next
        { s with
          op := 0x14#8
          phaseReg := 0#3
          cause := .done
          result := 0#32
          trace := s.trace ++
            (if s.args.arg1.toNat = 0 then
              [.feLoadBitstream, .feSetDivisor d, .feSetMode false, .feRoutePeak, .feStartClock]
             else
              [.feLoadBitstream, .feSetDivisor d, .feSetMode true, .feRoutePeak, .waitSettle, .feStartClock]) } ∧
      (if s.args.arg0.toNat = 0 then d = s.params.divStd
       else if 19 ≤ s.args.arg0.toNat ∧ s.args.arg0.toNat ≤ 255 then d.toNat = s.args.arg0.toNat
       else d = s.params.divHigh)

/-- READLF, READER and SNIFF latch their acquisition operands from the configuration, arm the front end with the
configured divisor, and start the generic engine (43_frontend.md R205, R210, R211; 30_encoding.md R109). The premise on
the divisor is its domain, which every legal state keeps. The model's own field `postDue` (log 9) is left open. -/
def Obligations.FrontEndCommandsStartACall : Prop :=
  ∀ (s : State) (i : Instr) (field verbose : Bool) (budget : Nat), s.busy = false → 19 ≤ s.cfg.divisor.toNat →
    (i = .readlf ∧ (field = true ↔ s.args.arg0.toNat ≠ 0) ∧ (verbose = true ↔ s.args.arg1.toNat ≠ 0) ∧
        budget = s.args.arg2.toNat ∨
     i = .reader ∧ field = true ∧ (verbose = true ↔ s.args.arg0.toNat ≠ 0) ∧ budget = s.args.arg1.toNat ∨
     i = .sniff ∧ field = false ∧ verbose = true ∧ budget = 0xFFFFFFFF) →
    ∃ (l : Latches) (due : Option Word),
      exec i s = .next
        { s with
          op := i.opcode
          busy := true
          cause := .none
          lat := l
          acq :=
            { armed := decide (0 < s.cfg.triggerThreshold.toInt), cancelCnt := 0#32, raceCnt := 0#32,
              skipLeft := s.cfg.samplesToSkip, remainingBudget := l.budget, decCounter := 0#32, runningSum := 0#40,
              totalAccepted := 0#32 }
          bp := { position := 0#32, numBits := 0#32 }
          postDue := due
          trace := s.trace ++
            ([.feLoadBitstream, .feSetDivisor s.cfg.divisor, .feSetMode field, .feRoutePeak]
              ++ (if field = true then [.waitSettle] else []) ++ [.feStartClock]) } ∧
      l.dec.toNat = s.cfg.decimation.toNat ∧ l.bps = s.cfg.bitsPerSample ∧ l.avg = s.cfg.averaging ∧
      l.thr = s.cfg.triggerThreshold ∧ l.budget.toNat = min budget s.cap ∧ l.cancel = 0#32 ∧
      l.limit = s.lat.limit ∧ l.field = field ∧ l.verbose = verbose

/-- READER and SNIFF are expansions of READLF: accepted with the operands 30_encoding.md R121 gives, READLF leaves the same
state but for `OP` and the operand registers it was given, and the poll iterations of the three agree but for `OP`. -/
def Obligations.ReaderAndSniffExpandToReadlf : Prop :=
  (∀ (s t : State) (f : Word), s.busy = false → f ≠ 0#32 → exec .reader s = .next t →
    exec .readlf { s with args := { s.args with arg0 := f, arg1 := s.args.arg0, arg2 := s.args.arg1 } } =
      .next { t with
        op := Instr.readlf.opcode
        args := { s.args with arg0 := f, arg1 := s.args.arg0, arg2 := s.args.arg1 } }) ∧
  (∀ (s t : State) (v : Word), s.busy = false → v ≠ 0#32 → exec .sniff s = .next t →
    exec .readlf { s with args := { s.args with arg0 := 0#32, arg1 := v, arg2 := 0xFFFFFFFF#32 } } =
      .next { t with
        op := Instr.readlf.opcode
        args := { s.args with arg0 := 0#32, arg1 := v, arg2 := 0xFFFFFFFF#32 } }) ∧
  (∀ (s t : State) (i : Instr) (w : BitVec 12), i = .reader ∨ i = .sniff → s.op = Instr.readlf.opcode →
    pollIteration w s = .next t →
    pollIteration w { s with op := i.opcode } = .next { t with op := i.opcode })

/-! ### The generic engine -/

/-- ACQ latches its clamped operands and starts the generic engine (42_acquire.md R160; 30_encoding.md R106 to R108). The
latches ACQ does not name keep their values; the model's own field `postDue` (log 9) is left open. -/
def Obligations.AcqStartsACall : Prop :=
  ∀ s : State, s.busy = false →
    ∃ (l : Latches) (skip : Word) (due : Option Word),
      exec .acq s = .next
        { s with
          op := 0x10#8
          busy := true
          cause := .none
          lat := l
          acq :=
            { armed := decide (0 < s.args.arg3.toInt), cancelCnt := 0#32, raceCnt := 0#32, skipLeft := skip,
              remainingBudget := l.budget, decCounter := 0#32, runningSum := 0#40, totalAccepted := 0#32 }
          bp := { position := 0#32, numBits := 0#32 }
          postDue := due } ∧
      l.dec.toNat = (if s.args.arg0.toNat = 0 then 1 else s.args.arg0.toNat) ∧
      l.bps.toNat = (if s.args.arg1.toNat = 0 then 1 else if 8 < s.args.arg1.toNat then 8 else s.args.arg1.toNat) ∧
      (l.avg = true ↔ s.args.arg2.toNat ≠ 0) ∧ l.thr = s.args.arg3 ∧
      l.budget.toNat = min s.args.arg4.toNat s.cap ∧ l.cancel = s.args.arg5 ∧
      skip.toInt = max s.args.arg6.toInt 0 ∧
      l.limit = s.lat.limit ∧ l.field = s.lat.field ∧ l.verbose = s.lat.verbose

/-- An abort ends a call of the ACQ family at once: no watchdog kick, no sample consumed, no counter changed
(42_acquire.md R163). -/
def Obligations.AbortEndsAnAcquisitionAtOnce : Prop :=
  ∀ (s : State) (i : Instr) (w : BitVec 12), s.busy = true → s.op = i.opcode →
    i = .acq ∨ i = .readlf ∨ i = .reader ∨ i = .sniff → (decodeInput w).abort = true →
    pollIteration w s = .next (terminateCall .userAbort s)

/-- An iteration of the ACQ family without an abort (42_acquire.md R162 lines 2 to 5, R164, R166; 60_exceptions.md R275).
While armed every iteration counts, and the one that reaches the period starts the count again and tests `dataAvail`: a race
abort there kicks no watchdog and takes no sample. Every other iteration goes on with the race count `n`, advanced, started
again or, once the trigger is not armed, frozen: it kicks the watchdog once and, when a sample is ready, takes and processes
it. -/
def Obligations.RaceCheckEveryPeriodWhileArmed : Prop :=
  ∀ (s : State) (i : Instr) (w : BitVec 12), s.busy = true → s.op = i.opcode →
    i = .acq ∨ i = .readlf ∨ i = .reader ∨ i = .sniff → (decodeInput w).abort = false →
    (s.acq.armed = true → s.acq.raceCnt + 1#32 = s.params.racePeriod → (decodeInput w).dataAvail = true →
      pollIteration w s = .next (terminateCall .raceAbort { s with acq := { s.acq with raceCnt := 0#32 } })) ∧
    (∀ n : Word,
      (s.acq.armed = true ∧ s.acq.raceCnt + 1#32 = s.params.racePeriod ∧ (decodeInput w).dataAvail = false ∧ n = 0#32 ∨
        s.acq.armed = true ∧ s.acq.raceCnt + 1#32 ≠ s.params.racePeriod ∧ n = s.acq.raceCnt + 1#32 ∨
        s.acq.armed = false ∧ n = s.acq.raceCnt) →
      ((decodeInput w).rxReady = false →
        pollIteration w s = .next { s with acq := { s.acq with raceCnt := n }, trace := s.trace ++ [.wdtKick] }) ∧
      ((decodeInput w).rxReady = true →
        pollIteration w s =
          (processSample (decodeInput w).sample
            { s with
              acq := { s.acq with raceCnt := n }
              trace := s.trace ++ [.wdtKick]
              samplesRead := s.samplesRead + 1 }).finish))

/-- A delivered sample goes through the budget test, the trigger gate and the skipper in that order; the sample that fires
the trigger is the first the skipper sees (42_acquire.md R167, R168, R172, R176; conflicts C1, C2, C7). `dev` is the
deviation of R170. -/
def Obligations.SampleGoesThroughGateAndSkip : Prop :=
  ∀ (s : State) (x : Byte) (dev : Int), dev = (x.toNat : Int) - 128 →
    (s.acq.remainingBudget = 0#32 → processSample x s = .terminate .done s) ∧
    (s.acq.remainingBudget ≠ 0#32 → s.acq.armed = true → -s.lat.thr.toInt ≤ dev ∧ dev ≤ s.lat.thr.toInt →
      (s.lat.cancel = 0#32 → processSample x s = .discard s) ∧
      (s.lat.cancel ≠ 0#32 → s.acq.cancelCnt + 1#32 ≠ s.lat.cancel →
        processSample x s = .discard { s with acq := { s.acq with cancelCnt := s.acq.cancelCnt + 1#32 } }) ∧
      (s.lat.cancel ≠ 0#32 → s.acq.cancelCnt + 1#32 = s.lat.cancel →
        processSample x s =
          .terminate .noSignal { s with acq := { s.acq with cancelCnt := s.acq.cancelCnt + 1#32 } })) ∧
    (s.acq.remainingBudget ≠ 0#32 → s.acq.armed = false ∨ ¬(-s.lat.thr.toInt ≤ dev ∧ dev ≤ s.lat.thr.toInt) →
      (0 < s.acq.skipLeft.toInt →
        processSample x s =
          .discard { s with acq := { s.acq with armed := false, skipLeft := s.acq.skipLeft - 1#32 } }) ∧
      (s.acq.skipLeft.toInt ≤ 0 →
        processSample x s = decimate x { s with acq := { s.acq with armed := false } }))

/-- A threshold of 128 or more lets no sample through the armed gate; of 127, only the sample 0 (42_acquire.md R173). -/
def Obligations.ExtremeThresholdsNeverFire : Prop :=
  ∀ (s : State) (x : Byte), s.acq.armed = true →
    (128 ≤ s.lat.thr.toInt → ∀ t, gate x s ≠ .pass t) ∧
    (s.lat.thr.toInt = 127 → ((∃ t, gate x s = .pass t) ↔ x = 0#8))

/-- The decimator over one group: the samples before the last only count and add up, and the last one logs the truncated
mean when averaging, else itself, and clears the accumulator (42_acquire.md R178). -/
def Obligations.DecimatorLogsOneValuePerGroup : Prop :=
  ∀ (s : State) (xs : List Byte) (x : Byte), s.acq.decCounter = 0#32 → s.acq.runningSum = 0#40 →
    xs.length + 1 = s.lat.dec.toNat →
    ∃ (t : State) (v : Byte), feedDecimator xs s = some t ∧
      t = { s with
        acq := { s.acq with
          decCounter := BitVec.ofNat 32 xs.length
          runningSum := BitVec.ofNat 40 (xs.map BitVec.toNat).sum } } ∧
      v.toNat =
        (if s.lat.avg = true ∧ 1 < s.lat.dec.toNat then ((xs.map BitVec.toNat).sum + x.toNat) / s.lat.dec.toNat
         else x.toNat) ∧
      decimate x t = logValue v s

/-- LOG writes the `L_BPS` most significant bits of the value, first bit first, at the bit cursor, leaves every other bit of
the buffer as it was, counts the sample, and ends the call exactly when the budget is used up (42_acquire.md R180,
R181). -/
def Obligations.LogPacksTheTopBits : Prop :=
  ∀ (s : State) (v : Byte), AcqInv s → s.buf.wf = true → s.acq.remainingBudget ≠ 0#32 →
    ∃ (m : Memory) (t : State), m.wf = true ∧
      (∀ p : Nat, bufBit m p =
        if s.bp.position.toNat ≤ p ∧ p < s.bp.position.toNat + s.lat.bps.toNat then
          v.getLsbD (7 - (p - s.bp.position.toNat))
        else bufBit s.buf p) ∧
      t = { s with
        buf := m
        acq := { s.acq with
          totalAccepted := s.acq.totalAccepted + 1#32
          remainingBudget := s.acq.remainingBudget - 1#32 }
        bp :=
          { position := BitVec.ofNat 32 (s.bp.position.toNat + s.lat.bps.toNat)
            numBits := BitVec.ofNat 32 (s.bp.position.toNat + s.lat.bps.toNat) } } ∧
      logValue v s = if s.acq.remainingBudget = 1#32 then .terminate .done t else .pass t

/-- The byte-aligned fast path and the bit-by-bit path store the same: 42_acquire.md R183 (which the spec derives). -/
def Obligations.FastPathEqualsBitByBitPath : Prop :=
  ∀ (s : State) (v : Byte), AcqInv s → s.buf.wf = true → s.lat.bps = 8#4 → s.acq.remainingBudget ≠ 0#32 →
    storeByte v s = storeBits v s

/-- BPW sets or clears one bit of the buffer and moves both cursors by one, and faults outside the buffer (40_bitpacker.md
R132). -/
def Obligations.BpwWritesOneBit : Prop :=
  ∀ (s : State) (bit : Bool), s.buf.wf = true →
    (s.bp.position.toNat / 8 < s.cap →
      ∃ m : Memory, m.wf = true ∧
        bpw bit s = .ok
          { s with buf := m, bp := { position := s.bp.position + 1#32, numBits := s.bp.numBits + 1#32 } } ∧
        ∀ p : Nat, bufBit m p = if p = s.bp.position.toNat then bit else bufBit s.buf p) ∧
    (s.cap ≤ s.bp.position.toNat / 8 → bpw bit s = .error .outsideBuffer)

/-- After BPRESET and a run of BPW operations that fits the buffer, the cursors are the number of bits, the buffer's first
bits are those bits, and every other bit is as it was: 40_bitpacker.md R133 (which the spec derives). -/
def Obligations.BitPackerWritesTheStream : Prop :=
  ∀ (s : State) (bits : List Bool), s.buf.wf = true → bits.length ≤ 8 * s.cap →
    ∃ m : Memory, m.wf = true ∧
      bpwAll bits (bpreset s) = .ok
        { s with
          buf := m
          bp := { position := BitVec.ofNat 32 bits.length, numBits := BitVec.ofNat 32 bits.length } } ∧
      ∀ p : Nat, bufBit m p = match bits[p]? with
        | some b => b
        | none => bufBit s.buf p

/-! ### Edge capture -/

/-- EDGE latches its clamped limit and starts seeking (44_edge_capture.md R220; 30_encoding.md R110). The model's own
field `postDue` (log 9) is left open. -/
def Obligations.EdgeStartsACall : Prop :=
  ∀ s : State, s.busy = false →
    ∃ (limit : Word) (due : Option Word), limit.toNat = min s.args.arg0.toNat s.cap ∧
      exec .edge s = .next
        { s with
          op := 0x20#8
          busy := true
          cause := .none
          phaseReg := 0#3
          lat := { s.lat with limit := limit }
          idx := 0#32
          edge := { lastSample := 0#8, skipCnt := 0#32 }
          postDue := due }

/-- The tests at the top of an iteration of EDGE, in their order; an iteration that ends the call kicks no watchdog and
takes no sample, and one without a sample only kicks (44_edge_capture.md R222). -/
def Obligations.EdgeIterationTests : Prop :=
  ∀ (s : State) (w : BitVec 12), s.busy = true → s.op = Instr.edge.opcode →
    (s.lat.limit.toNat ≤ s.idx.toNat → pollIteration w s = .next (terminateCall .done s)) ∧
    (s.idx.toNat < s.lat.limit.toNat → 1000 ≤ s.edge.skipCnt.toNat →
      pollIteration w s = .next (terminateCall .noEdge s)) ∧
    (s.idx.toNat < s.lat.limit.toNat → s.edge.skipCnt.toNat < 1000 → (decodeInput w).abort = true →
      pollIteration w s = .next (terminateCall .userAbort s)) ∧
    (s.idx.toNat < s.lat.limit.toNat → s.edge.skipCnt.toNat < 1000 → (decodeInput w).abort = false →
      (decodeInput w).rxReady = false → pollIteration w s = .next { s with trace := s.trace ++ [.wdtKick] })

/-- What a delivered sample does in each state of EDGE (44_edge_capture.md R224 to R228): `u` is the state after the
watchdog kick and the consumption of the sample `x`. -/
def Obligations.EdgeSampleRules : Prop :=
  ∀ (s u : State) (w : BitVec 12) (x : Nat), s.busy = true → s.op = Instr.edge.opcode →
    s.idx.toNat < s.lat.limit.toNat → s.lat.limit.toNat ≤ s.cap → s.edge.skipCnt.toNat < 1000 →
    (decodeInput w).abort = false → (decodeInput w).rxReady = true → x = (decodeInput w).sample.toNat →
    u = { s with trace := s.trace ++ [.wdtKick], samplesRead := s.samplesRead + 1 } →
    (s.phaseReg = 0#3 ∨ s.phaseReg = 1#3 → 188 < x → pollIteration w s = .next { u with phaseReg := 2#3 }) ∧
    (s.phaseReg = 0#3 ∨ s.phaseReg = 1#3 → x ≤ 188 →
      pollIteration w s = .next
        { u with phaseReg := 1#3, edge := { s.edge with skipCnt := s.edge.skipCnt + 1#32 } }) ∧
    (s.phaseReg = 2#3 → x < 68 →
      pollIteration w s = .next
        { u with phaseReg := 3#3, edge := { s.edge with lastSample := (decodeInput w).sample } }) ∧
    (s.phaseReg = 2#3 → 68 ≤ x →
      pollIteration w s = .next { u with edge := { s.edge with skipCnt := s.edge.skipCnt + 1#32 } }) ∧
    (s.phaseReg = 3#3 → 73 < x → s.idx.toNat + 1 < s.lat.limit.toNat →
      pollIteration w s = .next
        { u with
          phaseReg := 4#3
          idx := s.idx + 2#32
          buf := (s.buf.write s.idx.toNat s.edge.lastSample).write (s.idx.toNat + 1) (decodeInput w).sample }) ∧
    (s.phaseReg = 3#3 → 73 < x → s.idx.toNat + 1 = s.lat.limit.toNat →
      pollIteration w s = .next
        { u with
          phaseReg := 4#3
          idx := s.idx + 1#32
          buf := s.buf.write s.idx.toNat s.edge.lastSample }) ∧
    (s.phaseReg = 3#3 → x ≤ 73 →
      pollIteration w s = .next
        { u with
          edge :=
            { lastSample := if x < 68 then (decodeInput w).sample else s.edge.lastSample
              skipCnt := s.edge.skipCnt + 1#32 } }) ∧
    (s.phaseReg = 4#3 →
      pollIteration w s = .next
        { u with idx := s.idx + 1#32, buf := s.buf.write s.idx.toNat (decodeInput w).sample })

/-- The skip ceiling: a call of EDGE that is fed 1000 samples not above 188 ends in the next iteration, whatever that
brings, with NO_EDGE, `RESULT = 0` and the buffer as it was (44_edge_capture.md R232, which the spec derives). -/
def Obligations.EdgeGivesUpAfterAThousandDiscards : Prop :=
  ∀ (s : State) (ws : List (BitVec 12)) (w : BitVec 12), s.busy = true → s.op = Instr.edge.opcode → s.phaseReg = 0#3 →
    s.idx = 0#32 → s.edge.skipCnt = 0#32 → 0 < s.lat.limit.toNat → ws.length = 1000 →
    (∀ v ∈ ws, (decodeInput v).rxReady = true ∧ (decodeInput v).abort = false ∧ (decodeInput v).sample.toNat ≤ 188) →
    ∃ t : State, polls (ws ++ [w]) s = .next t ∧ t.busy = false ∧ t.cause = .noEdge ∧ t.result = 0#32 ∧
      t.buf = s.buf ∧ t.samplesRead = s.samplesRead + 1000

/-! ### Manchester capture -/

/-- MFILL and MBITS are accepted the same way: the clamped limit, the reset working registers, and the search for the high
peak (45_manchester.md R240, R254; 30_encoding.md R110). The model's own field `postDue` (log 9) is left open. -/
def Obligations.ManchesterCommandsStartACall : Prop :=
  ∀ (s : State) (i : Instr), s.busy = false → i = .mfill ∨ i = .mbits →
    ∃ (limit : Word) (due : Option Word), limit.toNat = min s.args.arg0.toNat s.cap ∧
      exec i s = .next
        { s with
          op := i.opcode
          busy := true
          cause := .none
          phaseReg := 0#3
          lat := { s.lat with limit := limit }
          idx := 0#32
          man := { noiseCnt := 0#32, hold := 0#8, curr := false, prev := false, period := 384#32 }
          postDue := due }

/-- The tests at the top of an iteration of MFILL or MBITS, in their order (45_manchester.md R242). -/
def Obligations.ManchesterIterationTests : Prop :=
  ∀ (s : State) (i : Instr) (w : BitVec 12), s.busy = true → s.op = i.opcode → i = .mfill ∨ i = .mbits →
    (s.lat.limit.toNat ≤ s.idx.toNat → pollIteration w s = .next (terminateCall .done s)) ∧
    (s.idx.toNat < s.lat.limit.toNat → 768 < s.man.noiseCnt.toNat →
      pollIteration w s = .next (terminateCall .noiseTimeout s)) ∧
    (s.idx.toNat < s.lat.limit.toNat → s.man.noiseCnt.toNat ≤ 768 → (decodeInput w).abort = true →
      pollIteration w s = .next (terminateCall .userAbort s)) ∧
    (s.idx.toNat < s.lat.limit.toNat → s.man.noiseCnt.toNat ≤ 768 → (decodeInput w).abort = false →
      (decodeInput w).rxReady = false → pollIteration w s = .next { s with trace := s.trace ++ [.wdtKick] })

/-- The shared peak search: a sample above 133, then a sample below 123, each clearing the noise count; every other sample is
noise (45_manchester.md R244, R245). -/
def Obligations.ManchesterPeakSearch : Prop :=
  ∀ (s u : State) (i : Instr) (w : BitVec 12) (x : Nat), s.busy = true → s.op = i.opcode → i = .mfill ∨ i = .mbits →
    s.idx.toNat < s.lat.limit.toNat → s.man.noiseCnt.toNat ≤ 768 →
    (decodeInput w).abort = false → (decodeInput w).rxReady = true → x = (decodeInput w).sample.toNat →
    u = { s with trace := s.trace ++ [.wdtKick], samplesRead := s.samplesRead + 1 } →
    (s.phaseReg = 0#3 → 133 < x →
      pollIteration w s = .next
        { u with
          phaseReg := 1#3
          man := { s.man with noiseCnt := 0#32, hold := 255#8, prev := s.man.curr, curr := true } }) ∧
    (s.phaseReg = 1#3 → x < 123 →
      pollIteration w s = .next
        { u with
          phaseReg := 2#3
          man := { noiseCnt := 0#32, hold := 0#8, prev := s.man.curr, curr := false, period := 384#32 } }) ∧
    (s.phaseReg = 0#3 ∧ x ≤ 133 ∨ s.phaseReg = 1#3 ∧ 123 ≤ x →
      pollIteration w s = .next { u with man := { s.man with noiseCnt := s.man.noiseCnt + 1#32 } })

/-- A data sample of MFILL: one byte 255, 0 or the held value, written at `idx` and held (45_manchester.md R248, R249). -/
def Obligations.MfillWritesOneByteASample : Prop :=
  ∀ (s : State) (w : BitVec 12) (q : Byte), s.busy = true → s.op = Instr.mfill.opcode → s.phaseReg = 2#3 →
    s.idx.toNat < s.lat.limit.toNat → s.lat.limit.toNat ≤ s.cap → s.man.noiseCnt.toNat ≤ 768 →
    (decodeInput w).abort = false → (decodeInput w).rxReady = true →
    (q = if 133 < (decodeInput w).sample.toNat then 255#8
      else if (decodeInput w).sample.toNat < 123 then 0#8 else s.man.hold) →
    pollIteration w s = .next
      { s with
        trace := s.trace ++ [.wdtKick]
        samplesRead := s.samplesRead + 1
        buf := s.buf.write s.idx.toNat q
        idx := s.idx + 1#32
        man := { s.man with hold := q } }

/-- MBITS over one whole period: 384 delivered samples write exactly one byte, 1 or 0, the class of the last decisive sample
(or the class held before), and the period starts again (45_manchester.md R256, R257). -/
def Obligations.MbitsEmitsOneBitAPeriod : Prop :=
  ∀ (s : State) (ws : List (BitVec 12)), s.busy = true → s.op = Instr.mbits.opcode → s.phaseReg = 2#3 →
    s.man.period = 384#32 → s.man.noiseCnt.toNat ≤ 768 → s.idx.toNat < s.lat.limit.toNat →
    s.lat.limit.toNat ≤ s.cap → ws.length = 384 →
    (∀ v ∈ ws, (decodeInput v).rxReady = true ∧ (decodeInput v).abort = false) →
    ∃ p : Bool,
      polls ws s = .next
        { s with
          trace := s.trace ++ List.replicate 384 .wdtKick
          samplesRead := s.samplesRead + 384
          buf := s.buf.write s.idx.toNat (if lastClass ws s.man.curr = true then 1#8 else 0#8)
          idx := s.idx + 1#32
          man := { s.man with curr := lastClass ws s.man.curr, prev := p } }

/-- The noise limit: a call of MFILL or MBITS that is fed 769 samples none of which is above 133 ends in the next
iteration, whatever that brings, with NOISE_TIMEOUT, `RESULT = 0` and the buffer as it was (45_manchester.md R242,
R246). -/
def Obligations.ManchesterNoiseTimesOut : Prop :=
  ∀ (s : State) (i : Instr) (ws : List (BitVec 12)) (w : BitVec 12), s.busy = true → s.op = i.opcode →
    i = .mfill ∨ i = .mbits → s.phaseReg = 0#3 → s.idx = 0#32 → s.man.noiseCnt = 0#32 → 0 < s.lat.limit.toNat →
    ws.length = 769 →
    (∀ v ∈ ws, (decodeInput v).rxReady = true ∧ (decodeInput v).abort = false ∧ (decodeInput v).sample.toNat ≤ 133) →
    ∃ t : State, polls (ws ++ [w]) s = .next t ∧ t.busy = false ∧ t.cause = .noiseTimeout ∧ t.result = 0#32 ∧
      t.buf = s.buf ∧ t.samplesRead = s.samplesRead + 769

/-! ### Termination -/

/-- The terminating step of every looping command: events, `RESULT`, `CAUSE` and `BUSY`, and nothing else (60_exceptions.md
R283). The model's own field `postDue` (log 9) is left open. -/
def Obligations.TerminatingStepOfEveryCommand : Prop :=
  ∀ (s : State) (i : Instr) (c : Cause), s.op = i.opcode → i.looping = true →
    ∃ due : Option Word, terminateCall c s =
      { s with
        busy := false
        cause := c
        result := if i = .edge ∨ i = .mfill ∨ i = .mbits then s.idx else s.bp.numBits
        trace := s.trace
          ++ (if i = .edge ∨ i = .mbits then []
              else if i = .mfill then [.postOffset s.idx, .postScore s.idx]
              else [.postOffset s.acq.totalAccepted, .postScore s.acq.totalAccepted])
          ++ (if i = .readlf ∨ i = .reader ∨ i = .sniff then [.feOff] else [])
          ++ (if (i = .readlf ∨ i = .reader ∨ i = .sniff) ∧ s.lat.verbose = true then [.diag .summary] else [])
        postDue := due }

/-- What `RESULT` is for the cause a call ends with, from a legal state: 0 for NO_SIGNAL, RACE_ABORT, NO_EDGE and
NOISE_TIMEOUT, the whole budget or limit for DONE (60_exceptions.md R272, R273, R275, R276, R277). -/
def Obligations.ResultForEachCause : Prop :=
  ∀ (s t : State) (w : BitVec 12), s.Inv → s.busy = true → pollIteration w s = .next t → t.busy = false →
    (t.cause = .noSignal ∨ t.cause = .raceAbort ∨ t.cause = .noEdge ∨ t.cause = .noiseTimeout → t.result = 0#32) ∧
    (t.cause = .done → opIs Instr.acqFamily s = true →
      t.result.toNat = s.lat.budget.toNat * s.lat.bps.toNat) ∧
    (t.cause = .done → opIs Instr.acqFamily s = false → t.result = s.lat.limit)

/-! ### Rules of the whole machine -/

/-- The legal states of Safety hold at reset (10_state.md R58, R64). -/
def Obligations.ResetIsLegal : Prop := State.reset.Inv

/-- Every step from a legal state leads to a legal state: the buffer stays in its form and inside its capacity, the
configuration in its domains, the engine registers in their ranges and balances (10_state.md R22, R26, R32, R58;
42_acquire.md R182), whatever the environment does. -/
def Obligations.EveryStepKeepsLegality : Prop :=
  ∀ s t : State, s.Inv → step s = .next t → t.Inv

/-- No step from a legal state writes outside the buffer or meets a missing engine: the only fault is a host read of a byte
that does not exist, and nothing is refused (20_memory.md R78, 42_acquire.md R182). -/
def Obligations.NoStepOverrunsTheBuffer : Prop :=
  ∀ s : State, s.Inv →
    (∃ t, step s = .next t) ∨
    (∃ (a : Nat) (rest : List Move), s.pending = .readByte a :: rest ∧ s.cap ≤ a ∧ step s = .fault .hostReadOutside)

/-- `PHASE` never moves to a lower number within a call (10_state.md R22, which the spec derives), so the trigger fires at
most once. -/
def Obligations.PhaseNeverFallsWithinACall : Prop :=
  ∀ (s t : State) (w : BitVec 12), s.busy = true → pollIteration w s = .next t →
    (phase s).toNat ≤ (phase t).toNat ∧ (s.acq.armed = false → t.acq.armed = false)

/-- A poll iteration reads neither `ARG` nor `CFG`, and changes neither: whatever they hold, the rest of what it does is the
same (10_state.md R23). -/
def Obligations.CallReadsItsLatchesOnly : Prop :=
  ∀ (s : State) (w : BitVec 12) (x : Args) (c : SamplingConfig),
    (∀ t, pollIteration w s = .next t →
      t.args = s.args ∧ t.cfg = s.cfg ∧
      pollIteration w { s with args := x, cfg := c } = .next { t with args := x, cfg := c }) ∧
    (∀ e, pollIteration w s = .fault e → pollIteration w { s with args := x, cfg := c } = .fault e)

/-- `txReady` never matters, `dataAvail` never to EDGE, MFILL and MBITS, and `sample` never when `rxReady = 0`
(42_acquire.md R165, 44_edge_capture.md R222, 45_manchester.md R242, 30_encoding.md R112). -/
def Obligations.UnreadInputsHaveNoEffect : Prop :=
  ∀ (s : State) (v w : BitVec 12),
    (decodeInput v).abort = (decodeInput w).abort → (decodeInput v).rxReady = (decodeInput w).rxReady →
    ((decodeInput v).rxReady = true → (decodeInput v).sample = (decodeInput w).sample) →
    (opIs Instr.acqFamily s = true → (decodeInput v).dataAvail = (decodeInput w).dataAvail) →
    pollIteration v s = pollIteration w s

/-- Every poll iteration of a call adds events to the trace, at most one of them a watchdog kick, and consumes a sample
exactly when it kicked and one was ready (30_encoding.md R115, 42_acquire.md R164). -/
def Obligations.KickAndConsumptionOfAnIteration : Prop :=
  ∀ (s t : State) (w : BitVec 12), s.busy = true → pollIteration w s = .next t →
    ∃ es : List Event, t.trace = s.trace ++ es ∧ es.count .wdtKick ≤ 1 ∧
      t.samplesRead = s.samplesRead + (if (decodeInput w).rxReady = true then es.count .wdtKick else 0) ∧
      (t.busy = true → es = [.wdtKick])

/-- The frame of a poll iteration from a legal state: operands, configuration, latches, `OP`, the sticky bits, the
parameters, the host's own data and the registers of the other engines are unchanged, and so is every byte of the buffer
outside those the iteration may write: at the bit cursor for the ACQ family, at `idx` (and one further for EDGE) else
(20_memory.md R80, R84). -/
def Obligations.FrameOfAPollIteration : Prop :=
  ∀ (s t : State) (w : BitVec 12), s.Inv → s.busy = true → pollIteration w s = .next t →
    t.op = s.op ∧ t.ill = s.ill ∧ t.rej = s.rej ∧ t.args = s.args ∧ t.cfg = s.cfg ∧ t.lat = s.lat ∧
    t.params = s.params ∧ t.pending = s.pending ∧ t.readData = s.readData ∧ t.freeIndex = s.freeIndex ∧
    (opIs Instr.acqFamily s = true →
      t.idx = s.idx ∧ t.edge = s.edge ∧ t.man = s.man ∧ t.phaseReg = s.phaseReg ∧
      ∀ a : Nat, a < s.bp.position.toNat / 8 ∨ (s.bp.position.toNat + s.lat.bps.toNat + 7) / 8 ≤ a →
        t.buf.read a = s.buf.read a) ∧
    (s.op = Instr.edge.opcode →
      t.acq = s.acq ∧ t.bp = s.bp ∧ t.man = s.man ∧
      ∀ a : Nat, a < s.idx.toNat ∨ s.idx.toNat + 2 ≤ a → t.buf.read a = s.buf.read a) ∧
    (s.op = Instr.mfill.opcode ∨ s.op = Instr.mbits.opcode →
      t.acq = s.acq ∧ t.bp = s.bp ∧ t.edge = s.edge ∧
      ∀ a : Nat, a ≠ s.idx.toNat → t.buf.read a = s.buf.read a)

/-- Only a host write of a looping command's word to `CMD` starts a call, only a poll iteration ends one, with a cause, and
`RESULT` changes only in a step in which a command completes: one in which an idle block accepts an instantaneous command,
or a poll iteration that ends a call (10_state.md R21, R49; 60_exceptions.md R285). -/
def Obligations.OnlyCommandsStartAndPollsEndCalls : Prop :=
  ∀ s t : State, step s = .next t →
    (s.busy = false → t.busy = true →
      ∃ (w : Word) (rest : List Move) (i : Instr),
        s.pending = .write 0 w :: rest ∧ decode w = .ok i ∧ i.looping = true) ∧
    (s.busy = true → t.busy = false →
      t.cause ≠ .none ∧ (s.pending = [] ∨ ∃ (w : BitVec 12) (rest : List Move), s.pending = .poll w :: rest)) ∧
    (t.result ≠ s.result →
      t.busy = false ∧ t.cause ≠ .none ∧
      (s.busy = false ∧
          (∃ (w : Word) (rest : List Move) (i : Instr),
            s.pending = .write 0 w :: rest ∧ decode w = .ok i ∧ i.looping = false) ∨
        s.busy = true ∧ (s.pending = [] ∨ ∃ (w : BitVec 12) (rest : List Move), s.pending = .poll w :: rest)))

/-- The configuration is written by an accepted CFGMERGE only, `ARG` by a host write to its registers or an accepted CFGRD
only (10_state.md R50, R58). `ILL` rises only on an illegal word written to `CMD`, `REJ` only on a legal one written to it
during a call, and neither is ever cleared (10_state.md R48; 30_encoding.md R116, R117). No step changes the parameters:
`CAP` is constant for the life of the model (20_memory.md R82), and that all of them stand in a field of State is the
model's choice (log 3). -/
def Obligations.OnlyTheNamedWritersChangeRegisters : Prop :=
  ∀ s t : State, step s = .next t →
    (t.cfg ≠ s.cfg → s.busy = false ∧ ∃ rest, s.pending = .write 0 0x00000001#32 :: rest) ∧
    (t.args ≠ s.args →
      (∃ (n : Nat) (v : Word) (rest : List Move), 3 ≤ n ∧ n ≤ 9 ∧ s.pending = .write n v :: rest) ∨
      s.busy = false ∧ ∃ rest, s.pending = .write 0 0x00000002#32 :: rest) ∧
    (s.ill = true → t.ill = true) ∧ (s.rej = true → t.rej = true) ∧
    (s.ill = false → t.ill = true →
      ∃ (w : Word) (rest : List Move) (e : DecodeError), s.pending = .write 0 w :: rest ∧ decode w = .error e) ∧
    (s.rej = false → t.rej = true →
      s.busy = true ∧
      ∃ (w : Word) (rest : List Move) (i : Instr), s.pending = .write 0 w :: rest ∧ decode w = .ok i) ∧
    t.params = s.params

/-- A call keeps nothing of the calls before it: whatever the registers of its engine held, acceptance leaves the same state
(10_state.md R45, R285 of 60_exceptions.md). -/
def Obligations.AcceptanceForgetsEarlierCalls : Prop :=
  ∀ s : State, s.busy = false →
    (∀ (i : Instr) (a : SampleStore) (b : BitPacker), i = .acq ∨ i = .readlf ∨ i = .reader ∨ i = .sniff →
      exec i { s with acq := a, bp := b } = exec i s) ∧
    (∀ (n : Word) (e : EdgeRegs) (p : BitVec 3) (l : Word),
      exec .edge { s with idx := n, edge := e, phaseReg := p, lat := { s.lat with limit := l } } = exec .edge s) ∧
    (∀ (i : Instr) (n : Word) (m : ManRegs) (p : BitVec 3) (l : Word), i = .mfill ∨ i = .mbits →
      exec i { s with idx := n, man := m, phaseReg := p, lat := { s.lat with limit := l } } = exec i s)

/-- The offset remover rewrites the region it was called over with the bytes of the OPEN function and leaves every other byte
and register as it was (42_acquire.md R184, 20_memory.md R89). That it acts as a move of the environment after the call
is the model's choice (log 9). -/
def Obligations.OffsetRemovalStaysInItsRegion : Prop :=
  ∀ (s : State) (rest : List Move), s.pending = .removeOffset :: rest → s.buf.wf = true →
    (s.postDue = none → step s = .next { s with pending := rest }) ∧
    (∀ n : Word, s.postDue = some n → n.toNat ≤ s.cap →
      ∃ m : Memory, step s = .next { s with pending := rest, buf := m, postDue := none } ∧
        ∀ a : Nat, m.read a =
          if a < n.toNat then Config.postOffset ((List.range n.toNat).map s.buf.read) a else s.buf.read a)
end

