-- ==== Sys2Proof/Laws/State.lean ====
section
/-! SUPPORT. One lemma per field for each named update of the state, so that no later proof unfolds an update. -/

namespace Sys2Proof.Machine

/-! ### emit -/

@[simp] theorem emit_busy (s : State) (e : Event) : (s.emit e).busy = s.busy := rfl
@[simp] theorem emit_op (s : State) (e : Event) : (s.emit e).op = s.op := rfl
@[simp] theorem emit_phaseReg (s : State) (e : Event) : (s.emit e).phaseReg = s.phaseReg := rfl
@[simp] theorem emit_ill (s : State) (e : Event) : (s.emit e).ill = s.ill := rfl
@[simp] theorem emit_rej (s : State) (e : Event) : (s.emit e).rej = s.rej := rfl
@[simp] theorem emit_cause (s : State) (e : Event) : (s.emit e).cause = s.cause := rfl
@[simp] theorem emit_result (s : State) (e : Event) : (s.emit e).result = s.result := rfl
@[simp] theorem emit_args (s : State) (e : Event) : (s.emit e).args = s.args := rfl
@[simp] theorem emit_cfg (s : State) (e : Event) : (s.emit e).cfg = s.cfg := rfl
@[simp] theorem emit_lat (s : State) (e : Event) : (s.emit e).lat = s.lat := rfl
@[simp] theorem emit_acq (s : State) (e : Event) : (s.emit e).acq = s.acq := rfl
@[simp] theorem emit_bp (s : State) (e : Event) : (s.emit e).bp = s.bp := rfl
@[simp] theorem emit_idx (s : State) (e : Event) : (s.emit e).idx = s.idx := rfl
@[simp] theorem emit_edge (s : State) (e : Event) : (s.emit e).edge = s.edge := rfl
@[simp] theorem emit_man (s : State) (e : Event) : (s.emit e).man = s.man := rfl
@[simp] theorem emit_buf (s : State) (e : Event) : (s.emit e).buf = s.buf := rfl
@[simp] theorem emit_params (s : State) (e : Event) : (s.emit e).params = s.params := rfl
@[simp] theorem emit_pending (s : State) (e : Event) : (s.emit e).pending = s.pending := rfl
@[simp] theorem emit_freeIndex (s : State) (e : Event) : (s.emit e).freeIndex = s.freeIndex := rfl
@[simp] theorem emit_trace (s : State) (e : Event) : (s.emit e).trace = s.trace ++ [e] := rfl
@[simp] theorem emit_readData (s : State) (e : Event) : (s.emit e).readData = s.readData := rfl
@[simp] theorem emit_samplesRead (s : State) (e : Event) : (s.emit e).samplesRead = s.samplesRead := rfl
@[simp] theorem emit_postDue (s : State) (e : Event) : (s.emit e).postDue = s.postDue := rfl
@[simp] theorem emit_cap (s : State) (e : Event) : (s.emit e).cap = s.cap := rfl

/-! ### emitAll -/

@[simp] theorem emitAll_busy (s : State) (es : List Event) : (s.emitAll es).busy = s.busy := rfl
@[simp] theorem emitAll_op (s : State) (es : List Event) : (s.emitAll es).op = s.op := rfl
@[simp] theorem emitAll_phaseReg (s : State) (es : List Event) : (s.emitAll es).phaseReg = s.phaseReg := rfl
@[simp] theorem emitAll_ill (s : State) (es : List Event) : (s.emitAll es).ill = s.ill := rfl
@[simp] theorem emitAll_rej (s : State) (es : List Event) : (s.emitAll es).rej = s.rej := rfl
@[simp] theorem emitAll_cause (s : State) (es : List Event) : (s.emitAll es).cause = s.cause := rfl
@[simp] theorem emitAll_result (s : State) (es : List Event) : (s.emitAll es).result = s.result := rfl
@[simp] theorem emitAll_args (s : State) (es : List Event) : (s.emitAll es).args = s.args := rfl
@[simp] theorem emitAll_cfg (s : State) (es : List Event) : (s.emitAll es).cfg = s.cfg := rfl
@[simp] theorem emitAll_lat (s : State) (es : List Event) : (s.emitAll es).lat = s.lat := rfl
@[simp] theorem emitAll_acq (s : State) (es : List Event) : (s.emitAll es).acq = s.acq := rfl
@[simp] theorem emitAll_bp (s : State) (es : List Event) : (s.emitAll es).bp = s.bp := rfl
@[simp] theorem emitAll_idx (s : State) (es : List Event) : (s.emitAll es).idx = s.idx := rfl
@[simp] theorem emitAll_edge (s : State) (es : List Event) : (s.emitAll es).edge = s.edge := rfl
@[simp] theorem emitAll_man (s : State) (es : List Event) : (s.emitAll es).man = s.man := rfl
@[simp] theorem emitAll_buf (s : State) (es : List Event) : (s.emitAll es).buf = s.buf := rfl
@[simp] theorem emitAll_params (s : State) (es : List Event) : (s.emitAll es).params = s.params := rfl
@[simp] theorem emitAll_pending (s : State) (es : List Event) : (s.emitAll es).pending = s.pending := rfl
@[simp] theorem emitAll_freeIndex (s : State) (es : List Event) : (s.emitAll es).freeIndex = s.freeIndex := rfl
@[simp] theorem emitAll_trace (s : State) (es : List Event) : (s.emitAll es).trace = s.trace ++ es := rfl
@[simp] theorem emitAll_readData (s : State) (es : List Event) : (s.emitAll es).readData = s.readData := rfl
@[simp] theorem emitAll_samplesRead (s : State) (es : List Event) : (s.emitAll es).samplesRead = s.samplesRead := rfl
@[simp] theorem emitAll_postDue (s : State) (es : List Event) : (s.emitAll es).postDue = s.postDue := rfl
@[simp] theorem emitAll_cap (s : State) (es : List Event) : (s.emitAll es).cap = s.cap := rfl

/-! ### consumeSample -/

@[simp] theorem consumeSample_busy (s : State) : (s.consumeSample).busy = s.busy := rfl
@[simp] theorem consumeSample_op (s : State) : (s.consumeSample).op = s.op := rfl
@[simp] theorem consumeSample_phaseReg (s : State) : (s.consumeSample).phaseReg = s.phaseReg := rfl
@[simp] theorem consumeSample_ill (s : State) : (s.consumeSample).ill = s.ill := rfl
@[simp] theorem consumeSample_rej (s : State) : (s.consumeSample).rej = s.rej := rfl
@[simp] theorem consumeSample_cause (s : State) : (s.consumeSample).cause = s.cause := rfl
@[simp] theorem consumeSample_result (s : State) : (s.consumeSample).result = s.result := rfl
@[simp] theorem consumeSample_args (s : State) : (s.consumeSample).args = s.args := rfl
@[simp] theorem consumeSample_cfg (s : State) : (s.consumeSample).cfg = s.cfg := rfl
@[simp] theorem consumeSample_lat (s : State) : (s.consumeSample).lat = s.lat := rfl
@[simp] theorem consumeSample_acq (s : State) : (s.consumeSample).acq = s.acq := rfl
@[simp] theorem consumeSample_bp (s : State) : (s.consumeSample).bp = s.bp := rfl
@[simp] theorem consumeSample_idx (s : State) : (s.consumeSample).idx = s.idx := rfl
@[simp] theorem consumeSample_edge (s : State) : (s.consumeSample).edge = s.edge := rfl
@[simp] theorem consumeSample_man (s : State) : (s.consumeSample).man = s.man := rfl
@[simp] theorem consumeSample_buf (s : State) : (s.consumeSample).buf = s.buf := rfl
@[simp] theorem consumeSample_params (s : State) : (s.consumeSample).params = s.params := rfl
@[simp] theorem consumeSample_pending (s : State) : (s.consumeSample).pending = s.pending := rfl
@[simp] theorem consumeSample_freeIndex (s : State) : (s.consumeSample).freeIndex = s.freeIndex := rfl
@[simp] theorem consumeSample_trace (s : State) : (s.consumeSample).trace = s.trace := rfl
@[simp] theorem consumeSample_readData (s : State) : (s.consumeSample).readData = s.readData := rfl
@[simp] theorem consumeSample_samplesRead (s : State) : (s.consumeSample).samplesRead = s.samplesRead + 1 := rfl
@[simp] theorem consumeSample_postDue (s : State) : (s.consumeSample).postDue = s.postDue := rfl
@[simp] theorem consumeSample_cap (s : State) : (s.consumeSample).cap = s.cap := rfl

/-! ### flagIllegal -/

@[simp] theorem flagIllegal_busy (s : State) : (s.flagIllegal).busy = s.busy := rfl
@[simp] theorem flagIllegal_op (s : State) : (s.flagIllegal).op = s.op := rfl
@[simp] theorem flagIllegal_phaseReg (s : State) : (s.flagIllegal).phaseReg = s.phaseReg := rfl
@[simp] theorem flagIllegal_ill (s : State) : (s.flagIllegal).ill = true := rfl
@[simp] theorem flagIllegal_rej (s : State) : (s.flagIllegal).rej = s.rej := rfl
@[simp] theorem flagIllegal_cause (s : State) : (s.flagIllegal).cause = s.cause := rfl
@[simp] theorem flagIllegal_result (s : State) : (s.flagIllegal).result = s.result := rfl
@[simp] theorem flagIllegal_args (s : State) : (s.flagIllegal).args = s.args := rfl
@[simp] theorem flagIllegal_cfg (s : State) : (s.flagIllegal).cfg = s.cfg := rfl
@[simp] theorem flagIllegal_lat (s : State) : (s.flagIllegal).lat = s.lat := rfl
@[simp] theorem flagIllegal_acq (s : State) : (s.flagIllegal).acq = s.acq := rfl
@[simp] theorem flagIllegal_bp (s : State) : (s.flagIllegal).bp = s.bp := rfl
@[simp] theorem flagIllegal_idx (s : State) : (s.flagIllegal).idx = s.idx := rfl
@[simp] theorem flagIllegal_edge (s : State) : (s.flagIllegal).edge = s.edge := rfl
@[simp] theorem flagIllegal_man (s : State) : (s.flagIllegal).man = s.man := rfl
@[simp] theorem flagIllegal_buf (s : State) : (s.flagIllegal).buf = s.buf := rfl
@[simp] theorem flagIllegal_params (s : State) : (s.flagIllegal).params = s.params := rfl
@[simp] theorem flagIllegal_pending (s : State) : (s.flagIllegal).pending = s.pending := rfl
@[simp] theorem flagIllegal_freeIndex (s : State) : (s.flagIllegal).freeIndex = s.freeIndex := rfl
@[simp] theorem flagIllegal_trace (s : State) : (s.flagIllegal).trace = s.trace := rfl
@[simp] theorem flagIllegal_readData (s : State) : (s.flagIllegal).readData = s.readData := rfl
@[simp] theorem flagIllegal_samplesRead (s : State) : (s.flagIllegal).samplesRead = s.samplesRead := rfl
@[simp] theorem flagIllegal_postDue (s : State) : (s.flagIllegal).postDue = s.postDue := rfl
@[simp] theorem flagIllegal_cap (s : State) : (s.flagIllegal).cap = s.cap := rfl

/-! ### rejectCommand -/

@[simp] theorem rejectCommand_busy (s : State) : (s.rejectCommand).busy = s.busy := rfl
@[simp] theorem rejectCommand_op (s : State) : (s.rejectCommand).op = s.op := rfl
@[simp] theorem rejectCommand_phaseReg (s : State) : (s.rejectCommand).phaseReg = s.phaseReg := rfl
@[simp] theorem rejectCommand_ill (s : State) : (s.rejectCommand).ill = s.ill := rfl
@[simp] theorem rejectCommand_rej (s : State) : (s.rejectCommand).rej = true := rfl
@[simp] theorem rejectCommand_cause (s : State) : (s.rejectCommand).cause = s.cause := rfl
@[simp] theorem rejectCommand_result (s : State) : (s.rejectCommand).result = s.result := rfl
@[simp] theorem rejectCommand_args (s : State) : (s.rejectCommand).args = s.args := rfl
@[simp] theorem rejectCommand_cfg (s : State) : (s.rejectCommand).cfg = s.cfg := rfl
@[simp] theorem rejectCommand_lat (s : State) : (s.rejectCommand).lat = s.lat := rfl
@[simp] theorem rejectCommand_acq (s : State) : (s.rejectCommand).acq = s.acq := rfl
@[simp] theorem rejectCommand_bp (s : State) : (s.rejectCommand).bp = s.bp := rfl
@[simp] theorem rejectCommand_idx (s : State) : (s.rejectCommand).idx = s.idx := rfl
@[simp] theorem rejectCommand_edge (s : State) : (s.rejectCommand).edge = s.edge := rfl
@[simp] theorem rejectCommand_man (s : State) : (s.rejectCommand).man = s.man := rfl
@[simp] theorem rejectCommand_buf (s : State) : (s.rejectCommand).buf = s.buf := rfl
@[simp] theorem rejectCommand_params (s : State) : (s.rejectCommand).params = s.params := rfl
@[simp] theorem rejectCommand_pending (s : State) : (s.rejectCommand).pending = s.pending := rfl
@[simp] theorem rejectCommand_freeIndex (s : State) : (s.rejectCommand).freeIndex = s.freeIndex := rfl
@[simp] theorem rejectCommand_trace (s : State) : (s.rejectCommand).trace = s.trace := rfl
@[simp] theorem rejectCommand_readData (s : State) : (s.rejectCommand).readData = s.readData := rfl
@[simp] theorem rejectCommand_samplesRead (s : State) : (s.rejectCommand).samplesRead = s.samplesRead := rfl
@[simp] theorem rejectCommand_postDue (s : State) : (s.rejectCommand).postDue = s.postDue := rfl
@[simp] theorem rejectCommand_cap (s : State) : (s.rejectCommand).cap = s.cap := rfl

/-! ### completeInstant -/

@[simp] theorem completeInstant_busy (s : State) : (completeInstant s).busy = s.busy := rfl
@[simp] theorem completeInstant_op (s : State) : (completeInstant s).op = s.op := rfl
@[simp] theorem completeInstant_phaseReg (s : State) : (completeInstant s).phaseReg = 0#3 := rfl
@[simp] theorem completeInstant_ill (s : State) : (completeInstant s).ill = s.ill := rfl
@[simp] theorem completeInstant_rej (s : State) : (completeInstant s).rej = s.rej := rfl
@[simp] theorem completeInstant_cause (s : State) : (completeInstant s).cause = .done := rfl
@[simp] theorem completeInstant_result (s : State) : (completeInstant s).result = 0#32 := rfl
@[simp] theorem completeInstant_args (s : State) : (completeInstant s).args = s.args := rfl
@[simp] theorem completeInstant_cfg (s : State) : (completeInstant s).cfg = s.cfg := rfl
@[simp] theorem completeInstant_lat (s : State) : (completeInstant s).lat = s.lat := rfl
@[simp] theorem completeInstant_acq (s : State) : (completeInstant s).acq = s.acq := rfl
@[simp] theorem completeInstant_bp (s : State) : (completeInstant s).bp = s.bp := rfl
@[simp] theorem completeInstant_idx (s : State) : (completeInstant s).idx = s.idx := rfl
@[simp] theorem completeInstant_edge (s : State) : (completeInstant s).edge = s.edge := rfl
@[simp] theorem completeInstant_man (s : State) : (completeInstant s).man = s.man := rfl
@[simp] theorem completeInstant_buf (s : State) : (completeInstant s).buf = s.buf := rfl
@[simp] theorem completeInstant_params (s : State) : (completeInstant s).params = s.params := rfl
@[simp] theorem completeInstant_pending (s : State) : (completeInstant s).pending = s.pending := rfl
@[simp] theorem completeInstant_freeIndex (s : State) : (completeInstant s).freeIndex = s.freeIndex := rfl
@[simp] theorem completeInstant_trace (s : State) : (completeInstant s).trace = s.trace := rfl
@[simp] theorem completeInstant_readData (s : State) : (completeInstant s).readData = s.readData := rfl
@[simp] theorem completeInstant_samplesRead (s : State) : (completeInstant s).samplesRead = s.samplesRead := rfl
@[simp] theorem completeInstant_postDue (s : State) : (completeInstant s).postDue = s.postDue := rfl
@[simp] theorem completeInstant_cap (s : State) : (completeInstant s).cap = s.cap := rfl

/-! ### beginCall -/

@[simp] theorem beginCall_busy (s : State) : (beginCall s).busy = true := rfl
@[simp] theorem beginCall_op (s : State) : (beginCall s).op = s.op := rfl
@[simp] theorem beginCall_phaseReg (s : State) : (beginCall s).phaseReg = s.phaseReg := rfl
@[simp] theorem beginCall_ill (s : State) : (beginCall s).ill = s.ill := rfl
@[simp] theorem beginCall_rej (s : State) : (beginCall s).rej = s.rej := rfl
@[simp] theorem beginCall_cause (s : State) : (beginCall s).cause = .none := rfl
@[simp] theorem beginCall_result (s : State) : (beginCall s).result = s.result := rfl
@[simp] theorem beginCall_args (s : State) : (beginCall s).args = s.args := rfl
@[simp] theorem beginCall_cfg (s : State) : (beginCall s).cfg = s.cfg := rfl
@[simp] theorem beginCall_lat (s : State) : (beginCall s).lat = s.lat := rfl
@[simp] theorem beginCall_acq (s : State) : (beginCall s).acq = s.acq := rfl
@[simp] theorem beginCall_bp (s : State) : (beginCall s).bp = s.bp := rfl
@[simp] theorem beginCall_idx (s : State) : (beginCall s).idx = s.idx := rfl
@[simp] theorem beginCall_edge (s : State) : (beginCall s).edge = s.edge := rfl
@[simp] theorem beginCall_man (s : State) : (beginCall s).man = s.man := rfl
@[simp] theorem beginCall_buf (s : State) : (beginCall s).buf = s.buf := rfl
@[simp] theorem beginCall_params (s : State) : (beginCall s).params = s.params := rfl
@[simp] theorem beginCall_pending (s : State) : (beginCall s).pending = s.pending := rfl
@[simp] theorem beginCall_freeIndex (s : State) : (beginCall s).freeIndex = s.freeIndex := rfl
@[simp] theorem beginCall_trace (s : State) : (beginCall s).trace = s.trace := rfl
@[simp] theorem beginCall_readData (s : State) : (beginCall s).readData = s.readData := rfl
@[simp] theorem beginCall_samplesRead (s : State) : (beginCall s).samplesRead = s.samplesRead := rfl
@[simp] theorem beginCall_postDue (s : State) : (beginCall s).postDue = none := rfl
@[simp] theorem beginCall_cap (s : State) : (beginCall s).cap = s.cap := rfl

/-! ### postProcess -/

@[simp] theorem postProcess_busy (n : Word) (s : State) : (postProcess n s).busy = s.busy := rfl
@[simp] theorem postProcess_op (n : Word) (s : State) : (postProcess n s).op = s.op := rfl
@[simp] theorem postProcess_phaseReg (n : Word) (s : State) : (postProcess n s).phaseReg = s.phaseReg := rfl
@[simp] theorem postProcess_ill (n : Word) (s : State) : (postProcess n s).ill = s.ill := rfl
@[simp] theorem postProcess_rej (n : Word) (s : State) : (postProcess n s).rej = s.rej := rfl
@[simp] theorem postProcess_cause (n : Word) (s : State) : (postProcess n s).cause = s.cause := rfl
@[simp] theorem postProcess_result (n : Word) (s : State) : (postProcess n s).result = s.result := rfl
@[simp] theorem postProcess_args (n : Word) (s : State) : (postProcess n s).args = s.args := rfl
@[simp] theorem postProcess_cfg (n : Word) (s : State) : (postProcess n s).cfg = s.cfg := rfl
@[simp] theorem postProcess_lat (n : Word) (s : State) : (postProcess n s).lat = s.lat := rfl
@[simp] theorem postProcess_acq (n : Word) (s : State) : (postProcess n s).acq = s.acq := rfl
@[simp] theorem postProcess_bp (n : Word) (s : State) : (postProcess n s).bp = s.bp := rfl
@[simp] theorem postProcess_idx (n : Word) (s : State) : (postProcess n s).idx = s.idx := rfl
@[simp] theorem postProcess_edge (n : Word) (s : State) : (postProcess n s).edge = s.edge := rfl
@[simp] theorem postProcess_man (n : Word) (s : State) : (postProcess n s).man = s.man := rfl
@[simp] theorem postProcess_buf (n : Word) (s : State) : (postProcess n s).buf = s.buf := rfl
@[simp] theorem postProcess_params (n : Word) (s : State) : (postProcess n s).params = s.params := rfl
@[simp] theorem postProcess_pending (n : Word) (s : State) : (postProcess n s).pending = s.pending := rfl
@[simp] theorem postProcess_freeIndex (n : Word) (s : State) : (postProcess n s).freeIndex = s.freeIndex := rfl
@[simp] theorem postProcess_trace (n : Word) (s : State) : (postProcess n s).trace = s.trace ++ [.postOffset n, .postScore n] := rfl
@[simp] theorem postProcess_readData (n : Word) (s : State) : (postProcess n s).readData = s.readData := rfl
@[simp] theorem postProcess_samplesRead (n : Word) (s : State) : (postProcess n s).samplesRead = s.samplesRead := rfl
@[simp] theorem postProcess_postDue (n : Word) (s : State) : (postProcess n s).postDue = some n := rfl
@[simp] theorem postProcess_cap (n : Word) (s : State) : (postProcess n s).cap = s.cap := rfl

/-! ### bpreset -/

@[simp] theorem bpreset_busy (s : State) : (bpreset s).busy = s.busy := rfl
@[simp] theorem bpreset_op (s : State) : (bpreset s).op = s.op := rfl
@[simp] theorem bpreset_phaseReg (s : State) : (bpreset s).phaseReg = s.phaseReg := rfl
@[simp] theorem bpreset_ill (s : State) : (bpreset s).ill = s.ill := rfl
@[simp] theorem bpreset_rej (s : State) : (bpreset s).rej = s.rej := rfl
@[simp] theorem bpreset_cause (s : State) : (bpreset s).cause = s.cause := rfl
@[simp] theorem bpreset_result (s : State) : (bpreset s).result = s.result := rfl
@[simp] theorem bpreset_args (s : State) : (bpreset s).args = s.args := rfl
@[simp] theorem bpreset_cfg (s : State) : (bpreset s).cfg = s.cfg := rfl
@[simp] theorem bpreset_lat (s : State) : (bpreset s).lat = s.lat := rfl
@[simp] theorem bpreset_acq (s : State) : (bpreset s).acq = s.acq := rfl
@[simp] theorem bpreset_bp (s : State) : (bpreset s).bp = { position := 0#32, numBits := 0#32 } := rfl
@[simp] theorem bpreset_idx (s : State) : (bpreset s).idx = s.idx := rfl
@[simp] theorem bpreset_edge (s : State) : (bpreset s).edge = s.edge := rfl
@[simp] theorem bpreset_man (s : State) : (bpreset s).man = s.man := rfl
@[simp] theorem bpreset_buf (s : State) : (bpreset s).buf = s.buf := rfl
@[simp] theorem bpreset_params (s : State) : (bpreset s).params = s.params := rfl
@[simp] theorem bpreset_pending (s : State) : (bpreset s).pending = s.pending := rfl
@[simp] theorem bpreset_freeIndex (s : State) : (bpreset s).freeIndex = s.freeIndex := rfl
@[simp] theorem bpreset_trace (s : State) : (bpreset s).trace = s.trace := rfl
@[simp] theorem bpreset_readData (s : State) : (bpreset s).readData = s.readData := rfl
@[simp] theorem bpreset_samplesRead (s : State) : (bpreset s).samplesRead = s.samplesRead := rfl
@[simp] theorem bpreset_postDue (s : State) : (bpreset s).postDue = s.postDue := rfl
@[simp] theorem bpreset_cap (s : State) : (bpreset s).cap = s.cap := rfl

/-! ### countSkip -/

@[simp] theorem countSkip_busy (s : State) : (countSkip s).busy = s.busy := rfl
@[simp] theorem countSkip_op (s : State) : (countSkip s).op = s.op := rfl
@[simp] theorem countSkip_phaseReg (s : State) : (countSkip s).phaseReg = s.phaseReg := rfl
@[simp] theorem countSkip_ill (s : State) : (countSkip s).ill = s.ill := rfl
@[simp] theorem countSkip_rej (s : State) : (countSkip s).rej = s.rej := rfl
@[simp] theorem countSkip_cause (s : State) : (countSkip s).cause = s.cause := rfl
@[simp] theorem countSkip_result (s : State) : (countSkip s).result = s.result := rfl
@[simp] theorem countSkip_args (s : State) : (countSkip s).args = s.args := rfl
@[simp] theorem countSkip_cfg (s : State) : (countSkip s).cfg = s.cfg := rfl
@[simp] theorem countSkip_lat (s : State) : (countSkip s).lat = s.lat := rfl
@[simp] theorem countSkip_acq (s : State) : (countSkip s).acq = s.acq := rfl
@[simp] theorem countSkip_bp (s : State) : (countSkip s).bp = s.bp := rfl
@[simp] theorem countSkip_idx (s : State) : (countSkip s).idx = s.idx := rfl
@[simp] theorem countSkip_edge (s : State) : (countSkip s).edge = { s.edge with skipCnt := s.edge.skipCnt + 1#32 } := rfl
@[simp] theorem countSkip_man (s : State) : (countSkip s).man = s.man := rfl
@[simp] theorem countSkip_buf (s : State) : (countSkip s).buf = s.buf := rfl
@[simp] theorem countSkip_params (s : State) : (countSkip s).params = s.params := rfl
@[simp] theorem countSkip_pending (s : State) : (countSkip s).pending = s.pending := rfl
@[simp] theorem countSkip_freeIndex (s : State) : (countSkip s).freeIndex = s.freeIndex := rfl
@[simp] theorem countSkip_trace (s : State) : (countSkip s).trace = s.trace := rfl
@[simp] theorem countSkip_readData (s : State) : (countSkip s).readData = s.readData := rfl
@[simp] theorem countSkip_samplesRead (s : State) : (countSkip s).samplesRead = s.samplesRead := rfl
@[simp] theorem countSkip_postDue (s : State) : (countSkip s).postDue = s.postDue := rfl
@[simp] theorem countSkip_cap (s : State) : (countSkip s).cap = s.cap := rfl

/-! ### countNoise -/

@[simp] theorem countNoise_busy (s : State) : (countNoise s).busy = s.busy := rfl
@[simp] theorem countNoise_op (s : State) : (countNoise s).op = s.op := rfl
@[simp] theorem countNoise_phaseReg (s : State) : (countNoise s).phaseReg = s.phaseReg := rfl
@[simp] theorem countNoise_ill (s : State) : (countNoise s).ill = s.ill := rfl
@[simp] theorem countNoise_rej (s : State) : (countNoise s).rej = s.rej := rfl
@[simp] theorem countNoise_cause (s : State) : (countNoise s).cause = s.cause := rfl
@[simp] theorem countNoise_result (s : State) : (countNoise s).result = s.result := rfl
@[simp] theorem countNoise_args (s : State) : (countNoise s).args = s.args := rfl
@[simp] theorem countNoise_cfg (s : State) : (countNoise s).cfg = s.cfg := rfl
@[simp] theorem countNoise_lat (s : State) : (countNoise s).lat = s.lat := rfl
@[simp] theorem countNoise_acq (s : State) : (countNoise s).acq = s.acq := rfl
@[simp] theorem countNoise_bp (s : State) : (countNoise s).bp = s.bp := rfl
@[simp] theorem countNoise_idx (s : State) : (countNoise s).idx = s.idx := rfl
@[simp] theorem countNoise_edge (s : State) : (countNoise s).edge = s.edge := rfl
@[simp] theorem countNoise_man (s : State) : (countNoise s).man = { s.man with noiseCnt := s.man.noiseCnt + 1#32 } := rfl
@[simp] theorem countNoise_buf (s : State) : (countNoise s).buf = s.buf := rfl
@[simp] theorem countNoise_params (s : State) : (countNoise s).params = s.params := rfl
@[simp] theorem countNoise_pending (s : State) : (countNoise s).pending = s.pending := rfl
@[simp] theorem countNoise_freeIndex (s : State) : (countNoise s).freeIndex = s.freeIndex := rfl
@[simp] theorem countNoise_trace (s : State) : (countNoise s).trace = s.trace := rfl
@[simp] theorem countNoise_readData (s : State) : (countNoise s).readData = s.readData := rfl
@[simp] theorem countNoise_samplesRead (s : State) : (countNoise s).samplesRead = s.samplesRead := rfl
@[simp] theorem countNoise_postDue (s : State) : (countNoise s).postDue = s.postDue := rfl
@[simp] theorem countNoise_cap (s : State) : (countNoise s).cap = s.cap := rfl

end Sys2Proof.Machine
end

