-- ==== Sys2Proof/Laws/Memory.lean ====
section
/-! SUPPORT. The laws of the capture buffer: a read after a write, and that every operation keeps the canonical form
and stays inside the capacity. -/

namespace Sys2Proof.Machine

theorem readCells_below (cs : List Host.Cell) (lo a : Nat) (h : cellsWf lo cs = true) (ha : a < lo) :
    readCells cs a = unlistedByte := by
  induction cs generalizing lo with
  | nil => rfl
  | cons c cs ih =>
    simp only [cellsWf, Bool.and_eq_true, decide_eq_true_eq] at h
    have hne : c.1 ≠ a := by omega
    simp only [readCells, hne, if_false]
    exact ih (c.1 + 1) h.2.2 (by omega)

theorem cellsWf_mono (cs : List Host.Cell) (lo lo' : Nat) (h : cellsWf lo cs = true) (hle : lo' ≤ lo) :
    cellsWf lo' cs = true := by
  cases cs with
  | nil => rfl
  | cons c cs =>
    simp only [cellsWf, Bool.and_eq_true, decide_eq_true_eq] at h ⊢
    exact ⟨by omega, h.2⟩

theorem writeCells_wf (cs : List Host.Cell) (lo a : Nat) (v : Byte) (h : cellsWf lo cs = true) (ha : lo ≤ a) :
    cellsWf lo (writeCells cs a v) = true := by
  induction cs generalizing lo with
  | nil =>
    simp only [writeCells]
    split <;> simp_all [cellsWf]
  | cons c cs ih =>
    simp only [cellsWf, Bool.and_eq_true, decide_eq_true_eq] at h
    obtain ⟨hlo, hne, htl⟩ := h
    simp only [writeCells]
    split
    · split
      · simp_all [cellsWf]
      · simp_all [cellsWf]
    · split
      · subst_vars
        split
        · exact cellsWf_mono _ _ _ htl (by omega)
        · simp_all [cellsWf]
      · simp only [cellsWf, Bool.and_eq_true, decide_eq_true_eq]
        exact ⟨hlo, hne, ih (c.1 + 1) htl (by omega)⟩

theorem readCells_writeCells (cs : List Host.Cell) (lo a b : Nat) (v : Byte) (h : cellsWf lo cs = true) :
    readCells (writeCells cs a v) b = if b = a then v else readCells cs b := by
  induction cs generalizing lo with
  | nil =>
    simp only [writeCells]
    split
    · rename_i hv; split <;> simp [readCells, hv]
    · by_cases hb : a = b
      · simp [readCells, hb]
      · simp [readCells, hb, Ne.symm hb]
  | cons c cs ih =>
    simp only [cellsWf, Bool.and_eq_true, decide_eq_true_eq] at h
    obtain ⟨_, _, htl⟩ := h
    have hlow := fun x => readCells_below cs (c.1 + 1) x htl
    simp only [writeCells]
    split
    · rename_i hlt
      split
      · rename_i hv
        by_cases hb : b = a
        · subst hb
          have h1 : c.1 ≠ b := by omega
          simp only [readCells, h1, if_false, if_true, hv]
          exact hlow b (by omega)
        · simp [hb]
      · by_cases hb : b = a
        · subst hb; simp [readCells]
        · have : a ≠ b := fun e => hb e.symm
          simp [readCells, hb, this]
    · split
      · rename_i heq
        subst heq
        split
        · rename_i hv
          by_cases hb : b = c.1
          · subst hb; simp [hv, hlow c.1 (by omega)]
          · have : c.1 ≠ b := fun e => hb e.symm
            simp [readCells, hb, this]
        · by_cases hb : b = c.1
          · subst hb; simp [readCells]
          · have : c.1 ≠ b := fun e => hb e.symm
            simp [readCells, hb, this]
      · rename_i _ hne
        by_cases hc : c.1 = b
        · have hb : b ≠ a := by omega
          simp [readCells, hc, hb]
        · simp only [readCells, hc, if_false]
          exact ih (c.1 + 1) htl

/-- A write keeps the canonical form. -/
theorem Memory.write_wf (m : Memory) (a : Nat) (v : Byte) (h : m.wf = true) : (m.write a v).wf = true :=
  writeCells_wf m.cells 0 a v h (Nat.zero_le a)

/-- A byte reads as it was last written; every other byte is as it was. -/
theorem Memory.read_write (m : Memory) (a b : Nat) (v : Byte) (h : m.wf = true) :
    (m.write a v).read b = if b = a then v else m.read b :=
  readCells_writeCells m.cells 0 a b v h

theorem Memory.read_write_same (m : Memory) (a : Nat) (v : Byte) (h : m.wf = true) : (m.write a v).read a = v := by
  simp [Memory.read_write m a a v h]

theorem Memory.read_write_other (m : Memory) (a b : Nat) (v : Byte) (h : m.wf = true) (hb : b ≠ a) :
    (m.write a v).read b = m.read b := by
  simp [Memory.read_write m a b v h, hb]

theorem writeCells_within (cs : List Host.Cell) (a cap : Nat) (v : Byte)
    (h : cs.all (fun c => decide (c.1 < cap)) = true) (ha : a < cap) :
    (writeCells cs a v).all (fun c => decide (c.1 < cap)) = true := by
  induction cs with
  | nil => simp only [writeCells]; split <;> simp [ha]
  | cons c cs ih =>
    simp only [List.all_cons, Bool.and_eq_true, decide_eq_true_eq] at h
    simp only [writeCells]
    split
    · have hc : (c :: cs).all (fun c => decide (c.1 < cap)) = true := by
        simp only [List.all_cons, Bool.and_eq_true, decide_eq_true_eq]; exact h
      split
      · exact hc
      · simp only [List.all_cons, Bool.and_eq_true, decide_eq_true_eq] at hc ⊢; exact ⟨ha, hc⟩
    · split
      · split
        · exact h.2
        · simp only [List.all_cons, Bool.and_eq_true, decide_eq_true_eq]; exact ⟨ha, h.2⟩
      · simp only [List.all_cons, Bool.and_eq_true, decide_eq_true_eq]; exact ⟨h.1, ih h.2⟩

/-- A write inside the capacity keeps the buffer inside it. -/
theorem Memory.write_within (m : Memory) (a cap : Nat) (v : Byte) (h : m.within cap = true) (ha : a < cap) :
    (m.write a v).within cap = true :=
  writeCells_within m.cells a cap v h ha

theorem cells_ext (xs ys : List Host.Cell) (lo : Nat) (hx : cellsWf lo xs = true) (hy : cellsWf lo ys = true)
    (h : ∀ a, readCells xs a = readCells ys a) : xs = ys := by
  have hne : ∀ (c : Host.Cell) (cs : List Host.Cell) (l : Nat), cellsWf l (c :: cs) = true → c.2 ≠ unlistedByte := by
    intro c cs l hc
    simp only [cellsWf, Bool.and_eq_true, Bool.not_eq_true', decide_eq_false_iff_not] at hc
    exact hc.2.1
  have htl : ∀ (c : Host.Cell) (cs : List Host.Cell) (l : Nat), cellsWf l (c :: cs) = true →
      cellsWf (c.1 + 1) cs = true := by
    intro c cs l hc
    simp only [cellsWf, Bool.and_eq_true] at hc
    exact hc.2.2
  have hhd : ∀ (c : Host.Cell) (cs : List Host.Cell), readCells (c :: cs) c.1 = c.2 := by
    intro c cs; simp [readCells]
  induction xs generalizing ys lo with
  | nil =>
    cases ys with
    | nil => rfl
    | cons d ds => exact absurd ((h d.1).trans (hhd d ds)).symm (hne d ds lo hy)
  | cons c cs ih =>
    cases ys with
    | nil => exact absurd ((hhd c cs).symm.trans (h c.1)) (hne c cs lo hx)
    | cons d ds =>
      have hcd : c.1 = d.1 := by
        rcases Nat.lt_trichotomy c.1 d.1 with hlt | heq | hlt
        · have e := h c.1
          rw [hhd, readCells, if_neg (by omega), readCells_below ds (d.1 + 1) c.1 (htl d ds lo hy) (by omega)] at e
          exact absurd e (hne c cs lo hx)
        · exact heq
        · have e := h d.1
          rw [hhd, readCells, if_neg (by omega), readCells_below cs (c.1 + 1) d.1 (htl c cs lo hx) (by omega)] at e
          exact absurd e.symm (hne d ds lo hy)
      have hval : c.2 = d.2 := by
        have e := h c.1
        rwa [hhd, hcd, hhd] at e
      have hc : c = d := Prod.ext hcd hval
      subst hc
      rw [ih ds (c.1 + 1) (htl c cs lo hx) (htl c ds lo hy) fun a => ?_]
      by_cases ha : c.1 = a
      · rw [readCells_below cs (c.1 + 1) a (htl c cs lo hx) (by omega),
          readCells_below ds (c.1 + 1) a (htl c ds lo hy) (by omega)]
      · have e := h a
        simpa only [readCells, if_neg ha] using e

/-- Buffers in canonical form that read alike are equal. -/
theorem Memory.ext_of_read (m n : Memory) (hm : m.wf = true) (hn : n.wf = true) (h : ∀ a, m.read a = n.read a) :
    m = n := by
  cases m; cases n
  exact congrArg Memory.mk (cells_ext _ _ 0 hm hn h)

theorem fillRegion_wf (f : Nat → Byte) (n : Nat) (m : Memory) (h : m.wf = true) : (fillRegion f n m).wf = true := by
  induction n with
  | zero => exact h
  | succ n ih => exact Memory.write_wf _ _ _ ih

theorem fillRegion_within (f : Nat → Byte) (n cap : Nat) (m : Memory) (h : m.within cap = true) (hn : n ≤ cap) :
    (fillRegion f n m).within cap = true := by
  induction n with
  | zero => exact h
  | succ n ih => exact Memory.write_within _ _ _ _ (ih (by omega)) (by omega)

/-- The region reads as the function gives it; the rest of the buffer is as it was. -/
theorem fillRegion_read (f : Nat → Byte) (n a : Nat) (m : Memory) (h : m.wf = true) :
    (fillRegion f n m).read a = if a < n then f a else m.read a := by
  induction n with
  | zero => simp [fillRegion]
  | succ n ih =>
    simp only [fillRegion]
    rw [Memory.read_write _ _ _ _ (fillRegion_wf f n m h), ih]
    split
    · subst_vars; simp
    · split <;> rename_i h1 h2 <;> simp_all <;> omega

/-- A block write that goes through changes one byte of the buffer and nothing else. -/
theorem memWrite_ok (s t : State) (a : Nat) (v : Byte) (h : memWrite s a v = .ok t) :
    a < s.cap ∧ t = { s with buf := s.buf.write a v } := by
  unfold memWrite at h
  split at h
  · exact ⟨‹_›, by cases h; rfl⟩
  · cases h

theorem memWrite_of_lt (s : State) (a : Nat) (v : Byte) (h : a < s.cap) :
    memWrite s a v = .ok { s with buf := s.buf.write a v } := by
  simp [memWrite, h]

theorem memRead_of_lt (s : State) (a : Nat) (h : a < s.cap) : memRead s a = .ok (s.buf.read a) := by
  simp [memRead, h]

end Sys2Proof.Machine
end

