-- ==== Sys2Proof/Laws/Ops.lean ====
section
/-! SUPPORT. For each shared operation, once, what it can do; proofs cite these lemmas instead of unfolding the
operation. -/

namespace Sys2Proof.Machine

/-! ### Which command is running -/

@[simp] theorem decodeOpcode_opcode (i : Instr) : decodeOpcode i.opcode = some i := by cases i <;> rfl

@[simp] theorem decodeOpcode_zero : decodeOpcode 0#8 = none := rfl

/-- Each opcode names at most one command: the one whose opcode it is. -/
theorem opcode_of_decodeOpcode (op : BitVec 8) (i : Instr) (h : decodeOpcode op = some i) : op = i.opcode := by
  obtain ⟨row, hfind, rfl⟩ := Option.map_eq_some_iff.1 h
  have hop := List.find?_some hfind
  have hmem := List.mem_of_find?_eq_some hfind
  simp only [opcodeMap, List.mem_cons, List.not_mem_nil, or_false] at hmem
  rcases hmem with rfl | rfl | rfl | rfl | rfl | rfl | rfl | rfl | rfl | rfl <;>
    exact (eq_of_beq hop).symm

theorem opIs_of_op (p : Instr → Bool) (s : State) (i : Instr) (h : s.op = i.opcode) : opIs p s = p i := by
  simp [opIs, h]

theorem opIs_congr (p : Instr → Bool) {s t : State} (h : t.op = s.op) : opIs p t = opIs p s := by
  simp [opIs, h]

/-- `OP` names a command with the property exactly when it decodes to one. -/
theorem opIs_iff (p : Instr → Bool) (s : State) : opIs p s = true ↔ ∃ i, decodeOpcode s.op = some i ∧ p i = true := by
  unfold opIs
  cases decodeOpcode s.op <;> simp

/-! ### Flow -/

@[simp] theorem andThen_pass (s : State) (k : State → Flow) : (Flow.pass s).andThen k = k s := rfl
@[simp] theorem andThen_discard (s : State) (k : State → Flow) : (Flow.discard s).andThen k = .discard s := rfl
@[simp] theorem andThen_terminate (c : Cause) (s : State) (k : State → Flow) :
    (Flow.terminate c s).andThen k = .terminate c s := rfl
@[simp] theorem andThen_fault (e : Fault) (k : State → Flow) : (Flow.fault e).andThen k = .fault e := rfl
@[simp] theorem ofAccess_ok (s : State) : Flow.ofAccess (.ok s) = .pass s := rfl
@[simp] theorem ofAccess_error (e : Fault) : Flow.ofAccess (.error e) = .fault e := rfl
@[simp] theorem finish_pass (s : State) : (Flow.pass s).finish = .next s := rfl
@[simp] theorem finish_discard (s : State) : (Flow.discard s).finish = .next s := rfl
@[simp] theorem finish_terminate (c : Cause) (s : State) : (Flow.terminate c s).finish = .next (terminateCall c s) := rfl
@[simp] theorem finish_fault (e : Fault) : (Flow.fault e).finish = .fault e := rfl

/-- A flow that does not fault, whose state meets `P` where the iteration goes on or stops, and `T` where it raises a
cause. -/
def Flow.Sat (f : Flow) (P : State → Prop) (T : Cause → State → Prop) : Prop :=
  match f with
  | .pass s => P s
  | .discard s => P s
  | .terminate c s => T c s
  | .fault _ => False

@[simp] theorem sat_pass (s : State) (P : State → Prop) (T : Cause → State → Prop) : (Flow.pass s).Sat P T ↔ P s :=
  Iff.rfl
@[simp] theorem sat_discard (s : State) (P : State → Prop) (T : Cause → State → Prop) :
    (Flow.discard s).Sat P T ↔ P s := Iff.rfl
@[simp] theorem sat_terminate (c : Cause) (s : State) (P : State → Prop) (T : Cause → State → Prop) :
    (Flow.terminate c s).Sat P T ↔ T c s := Iff.rfl
@[simp] theorem sat_fault (e : Fault) (P : State → Prop) (T : Cause → State → Prop) :
    (Flow.fault e).Sat P T ↔ False := Iff.rfl

theorem sat_mono {f : Flow} {P P' : State → Prop} {T T' : Cause → State → Prop} (h : f.Sat P T)
    (hP : ∀ s, P s → P' s) (hT : ∀ c s, T c s → T' c s) : f.Sat P' T' := by
  cases f <;> simp_all

/-- The rule of sequence: what holds where the first line goes on is the premise of the next line. -/
theorem sat_andThen {f : Flow} {k : State → Flow} {P : State → Prop} {T : Cause → State → Prop}
    (hf : f.Sat (fun s => (k s).Sat P T ∧ P s) T) : (f.andThen k).Sat P T := by
  cases f <;> simp_all

/-- A flow that meets `P` and `T` finishes in a next state, which is one of the two kinds. -/
theorem finish_of_sat {f : Flow} {P : State → Prop} {T : Cause → State → Prop} (h : f.Sat P T) :
    ∃ t, f.finish = .next t ∧ (P t ∨ ∃ c u, T c u ∧ t = terminateCall c u) := by
  cases f with
  | pass s => exact ⟨s, rfl, .inl h⟩
  | discard s => exact ⟨s, rfl, .inl h⟩
  | terminate c s => exact ⟨_, rfl, .inr ⟨c, s, h, rfl⟩⟩
  | fault e => exact h.elim

/-! ### Acceptance and rejection -/

theorem acceptWhenIdle_busy (i : Instr) (k : State → State) (s : State) (h : s.busy = true) :
    acceptWhenIdle i k s = .next s.rejectCommand := by
  simp [acceptWhenIdle, h]

theorem acceptWhenIdle_idle (i : Instr) (k : State → State) (s : State) (h : s.busy = false) :
    acceptWhenIdle i k s = .next (k { s with op := i.opcode }) := by
  simp [acceptWhenIdle, h]

/-! ### The terminating step -/

/-- What the terminating step adds to the trace (60_exceptions.md R283 lines 2 and 3). -/
theorem terminateCall_eq (c : Cause) (s : State) :
    terminateCall c s =
      { s with
        busy := false
        cause := c
        result := resultOf s
        trace := (terminateFrontEnd (terminatePost s)).trace
        postDue := (terminatePost s).postDue } := by
  unfold terminateCall terminateFrontEnd
  split <;> (unfold terminatePost; (repeat' split) <;> rfl)

@[simp] theorem terminateCall_busy (c : Cause) (s : State) : (terminateCall c s).busy = false := by
  simp [terminateCall_eq]
@[simp] theorem terminateCall_cause (c : Cause) (s : State) : (terminateCall c s).cause = c := by
  simp [terminateCall_eq]
@[simp] theorem terminateCall_result (c : Cause) (s : State) : (terminateCall c s).result = resultOf s := by
  simp [terminateCall_eq]
@[simp] theorem terminateCall_op (c : Cause) (s : State) : (terminateCall c s).op = s.op := by
  simp [terminateCall_eq]
@[simp] theorem terminateCall_phaseReg (c : Cause) (s : State) : (terminateCall c s).phaseReg = s.phaseReg := by
  simp [terminateCall_eq]
@[simp] theorem terminateCall_cfg (c : Cause) (s : State) : (terminateCall c s).cfg = s.cfg := by
  simp [terminateCall_eq]
@[simp] theorem terminateCall_args (c : Cause) (s : State) : (terminateCall c s).args = s.args := by
  simp [terminateCall_eq]
@[simp] theorem terminateCall_acq (c : Cause) (s : State) : (terminateCall c s).acq = s.acq := by
  simp [terminateCall_eq]
@[simp] theorem terminateCall_buf (c : Cause) (s : State) : (terminateCall c s).buf = s.buf := by
  simp [terminateCall_eq]
@[simp] theorem terminateCall_params (c : Cause) (s : State) : (terminateCall c s).params = s.params := by
  simp [terminateCall_eq]
@[simp] theorem terminateCall_pending (c : Cause) (s : State) : (terminateCall c s).pending = s.pending := by
  simp [terminateCall_eq]
@[simp] theorem terminateCall_lat (c : Cause) (s : State) : (terminateCall c s).lat = s.lat := by
  simp [terminateCall_eq]
@[simp] theorem terminateCall_bp (c : Cause) (s : State) : (terminateCall c s).bp = s.bp := by
  simp [terminateCall_eq]
@[simp] theorem terminateCall_idx (c : Cause) (s : State) : (terminateCall c s).idx = s.idx := by
  simp [terminateCall_eq]
@[simp] theorem terminateCall_edge (c : Cause) (s : State) : (terminateCall c s).edge = s.edge := by
  simp [terminateCall_eq]
@[simp] theorem terminateCall_man (c : Cause) (s : State) : (terminateCall c s).man = s.man := by
  simp [terminateCall_eq]
@[simp] theorem terminateCall_ill (c : Cause) (s : State) : (terminateCall c s).ill = s.ill := by
  simp [terminateCall_eq]
@[simp] theorem terminateCall_rej (c : Cause) (s : State) : (terminateCall c s).rej = s.rej := by
  simp [terminateCall_eq]
@[simp] theorem terminateCall_freeIndex (c : Cause) (s : State) : (terminateCall c s).freeIndex = s.freeIndex := by
  simp [terminateCall_eq]
@[simp] theorem terminateCall_readData (c : Cause) (s : State) : (terminateCall c s).readData = s.readData := by
  simp [terminateCall_eq]
@[simp] theorem terminateCall_samplesRead (c : Cause) (s : State) : (terminateCall c s).samplesRead = s.samplesRead := by
  simp [terminateCall_eq]

/-! ### The BitPacker -/

/-- BPW inside the buffer goes through: one byte written, the cursor moved by one (40_bitpacker.md R132). -/
theorem bpw_of_lt (bit : Bool) (s : State) (h : s.bp.position.toNat / 8 < s.cap) :
    bpw bit s = .ok
      { s with
        buf := s.buf.write (s.bp.position.toNat / 8)
          (withBit (s.buf.read (s.bp.position.toNat / 8)) (7 - s.bp.position.toNat % 8) bit)
        bp := { position := s.bp.position + 1#32, numBits := s.bp.numBits + 1#32 } } := by
  simp [bpw, memRead_of_lt s _ h, memWrite_of_lt s _ _ h]

/-- BPW outside the buffer faults (40_bitpacker.md R132). -/
theorem bpw_of_ge (bit : Bool) (s : State) (h : s.cap ≤ s.bp.position.toNat / 8) :
    bpw bit s = .error .outsideBuffer := by
  simp [bpw, memRead, Nat.not_lt.mpr h]

/-- A run of BPW operations that fits the buffer goes through; it moves the cursor by their number, keeps the buffer's
form, and leaves every byte outside the ones it reaches as it was. -/
theorem bpwAll_of_fits (bits : List Bool) (s : State) (hwf : s.buf.wf = true) (hin : s.buf.within s.cap = true)
    (hfit : s.bp.position.toNat + bits.length ≤ 8 * s.cap) (hbig : s.bp.position.toNat + bits.length < 2 ^ 32) :
    ∃ m : Memory, m.wf = true ∧ m.within s.cap = true ∧
      (∀ a, (a < s.bp.position.toNat / 8 ∨ (s.bp.position.toNat + bits.length + 7) / 8 ≤ a) → m.read a = s.buf.read a) ∧
      bpwAll bits s = .ok
        { s with
          buf := m
          bp :=
            { position := s.bp.position + BitVec.ofNat 32 bits.length
              numBits := s.bp.numBits + BitVec.ofNat 32 bits.length } } := by
  induction bits generalizing s with
  | nil => exact ⟨s.buf, hwf, hin, fun _ _ => rfl, by simp [bpwAll]⟩
  | cons bit bits ih =>
    simp only [List.length_cons] at hfit hbig
    have hlt : s.bp.position.toNat / 8 < s.cap := by omega
    have hpos : (s.bp.position + 1#32).toNat = s.bp.position.toNat + 1 := by
      rw [BitVec.toNat_add]; simp; omega
    simp only [bpwAll, bpw_of_lt bit s hlt]
    obtain ⟨m, h1, h2, h3, h4⟩ := ih
      { s with
        buf := s.buf.write (s.bp.position.toNat / 8)
          (withBit (s.buf.read (s.bp.position.toNat / 8)) (7 - s.bp.position.toNat % 8) bit)
        bp := { position := s.bp.position + 1#32, numBits := s.bp.numBits + 1#32 } }
      (Memory.write_wf _ _ _ hwf) (Memory.write_within _ _ _ _ hin hlt)
      (by simp only [hpos, State.cap] at *; omega) (by simp only [hpos] at *; omega)
    refine ⟨m, h1, h2, fun a ha => ?_, ?_⟩
    · have h3a := h3 a
      simp only [hpos] at h3a
      simp only [List.length_cons] at ha
      rw [Memory.read_write_other _ _ _ _ hwf (by omega)] at h3a
      exact h3a (by omega)
    · rw [h4]
      simp only [List.length_cons, BitVec.add_assoc]
      have : BitVec.ofNat 32 (bits.length + 1) = 1#32 + BitVec.ofNat 32 bits.length := by
        rw [BitVec.add_comm, BitVec.ofNat_add]
      rw [this]

@[simp] theorem topBits_length (v : Byte) (n : Nat) : (topBits v n).length = n := by simp [topBits]

/-! ### The specialized engines' write -/

/-- A byte write of a specialized engine inside the buffer (44_edge_capture.md R228). -/
theorem putByte_of_lt (v : Byte) (s : State) (h : s.idx.toNat < s.cap) :
    putByte v s = .pass { s with buf := s.buf.write s.idx.toNat v, idx := s.idx + 1#32 } := by
  simp [putByte, memWrite_of_lt s _ _ h]

/-! ### Operands -/

theorem clampToCap_toNat (s : State) (w : Word) : (clampToCap s w).toNat = min w.toNat s.cap := by
  have h1 := w.isLt
  simp only [clampToCap, BitVec.toNat_ofNat]
  exact Nat.mod_eq_of_lt (by omega)

theorem clampToCap_le (s : State) (w : Word) : (clampToCap s w).toNat ≤ s.cap := by
  rw [clampToCap_toNat]; exact Nat.min_le_right _ _

/-- `CAP` is below `2^29` (00_scope.md R8). -/
theorem cap_lt (s : State) : s.cap < 2 ^ 29 := s.params.cap.isLt

end Sys2Proof.Machine
end

