-- ==== Sys2Proof/Laws/Accept.lean ====
section
/-! SUPPORT. What each command's acceptance is, and that `exec` is rejection or acceptance (30_encoding.md R101). -/

namespace Sys2Proof.Machine

/-- The acceptance rule of each command (30_encoding.md R104, last column). -/
def acceptance : Instr → State → State
  | .cfgmerge => acceptCfgmerge
  | .cfgrd => acceptCfgrd
  | .acq => acceptAcq
  | .readlf => acceptReadlf
  | .reader => acceptReader
  | .sniff => acceptSniff
  | .arm => acceptArm
  | .edge => acceptEdge
  | .mfill => startManchester
  | .mbits => startManchester

/-- Every command is handled by the one rule of 30_encoding.md R101. -/
theorem exec_eq_accept (i : Instr) (s : State) : exec i s = acceptWhenIdle i (acceptance i) s := by cases i <;> rfl

theorem exec_of_idle (i : Instr) (s : State) (h : s.busy = false) :
    exec i s = .next (acceptance i { s with op := i.opcode }) := by
  rw [exec_eq_accept, acceptWhenIdle_idle _ _ _ h]

/-- The working state of the ACQ family at the start of a call (42_acquire.md R160). -/
theorem startAcquisition_eq (skip : Word) (s : State) :
    startAcquisition skip s =
      { s with
        acq :=
          { armed := decide (0 < s.lat.thr.toInt)
            cancelCnt := 0#32
            raceCnt := 0#32
            skipLeft := skip
            remainingBudget := s.lat.budget
            decCounter := 0#32
            runningSum := 0#40
            totalAccepted := 0#32 }
        bp := { position := 0#32, numBits := 0#32 }
        cause := .none
        busy := true
        postDue := none } := rfl

/-- READLF, READER and SNIFF differ from a start of the generic engine by the latched configuration and the arming
events only (43_frontend.md R205). -/
theorem startFrontEndCall_eq (field verbose : Bool) (budget : Word) (s : State) :
    startFrontEndCall field verbose budget s =
      startAcquisition s.cfg.samplesToSkip
        { s with
          lat := cfgLatches field verbose budget s
          trace := s.trace ++ armEvents (effDiv s.params (s.cfg.divisor.setWidth 32)) field } := rfl

theorem decOperand_pos (w : Word) : 1 ≤ (decOperand w).toNat := by
  unfold decOperand
  split
  · decide
  · rename_i h
    rcases Nat.eq_zero_or_pos w.toNat with e | e
    · exact absurd (BitVec.eq_of_toNat_eq (by simpa using e)) h
    · exact e

/-- `L_BPS` is always 1 to 8 (42_acquire.md R161). -/
theorem bpsOperand_range (w : Word) : 1 ≤ (bpsOperand w).toNat ∧ (bpsOperand w).toNat ≤ 8 := by
  unfold bpsOperand
  split
  · decide
  · rename_i h
    split
    · decide
    · have hne : w.toNat ≠ 0 := fun e => h (BitVec.eq_of_toNat_eq (by simpa using e))
      rw [BitVec.toNat_setWidth, Nat.mod_eq_of_lt (by omega)]
      omega

theorem skipOperand_nonneg (w : Word) : 0 ≤ (skipOperand w).toInt := by
  unfold skipOperand
  split
  · decide
  · omega

end Sys2Proof.Machine
end

