-- ==== Sys2Proof/Laws/Engines.lean ====
section
/-! SUPPORT. What each part of a poll iteration can answer, once: the lines of 42_acquire.md R162, the micro-operations
GATE, SKIP, DECIM and LOG, and which engine a poll iteration runs. -/

namespace Sys2Proof.Machine

/-! ### Which engine runs -/

/-- During a call of command `i` a poll iteration is one iteration of its engine. -/
theorem pollIteration_of_op (w : BitVec 12) (s : State) (i : Instr) (hb : s.busy = true) (ho : s.op = i.opcode) :
    pollIteration w s = runEngine i (decodeInput w) s := by
  simp [pollIteration, hb, ho]

/-- The four commands of the ACQ family run the generic engine (43_frontend.md R206). -/
theorem runEngine_acqFamily (i : Instr) (inp : Input) (s : State) (h : i.acqFamily = true) :
    runEngine i inp s = (iterateAcquisition inp s).finish := by
  cases i <;> first | rfl | cases h

@[simp] theorem runEngine_edge (inp : Input) (s : State) : runEngine .edge inp s = (iterateEdge inp s).finish := rfl
@[simp] theorem runEngine_mfill (inp : Input) (s : State) :
    runEngine .mfill inp s = (iterateManchester fillData inp s).finish := rfl
@[simp] theorem runEngine_mbits (inp : Input) (s : State) :
    runEngine .mbits inp s = (iterateManchester bitsData inp s).finish := rfl

/-! ### The generic engine -/

/-- The race check goes on with only its counter changed, or ends the call with RACE_ABORT (42_acquire.md R166). -/
theorem raceCheck_cases (inp : Input) (s : State) :
    (∃ n, raceCheck inp s = .pass { s with acq := { s.acq with raceCnt := n } }) ∨
    (s.acq.armed = true ∧ inp.dataAvail = true ∧
      raceCheck inp s = .terminate .raceAbort { s with acq := { s.acq with raceCnt := 0#32 } }) := by
  unfold raceCheck
  split
  · rename_i ha
    simp only []
    split
    · split
      · rename_i hd
        exact .inr ⟨ha, hd, rfl⟩
      · exact .inl ⟨_, rfl⟩
    · exact .inl ⟨_, rfl⟩
  · exact .inl ⟨s.acq.raceCnt, rfl⟩

/-- GATE goes on with the trigger no longer armed, or, while armed and in the band, uses the sample up or ends the call
with NO_SIGNAL; only `ARMED` and the cancel count can change (42_acquire.md R172). -/
theorem gate_cases (x : Byte) (s : State) :
    gate x s = .pass { s with acq := { s.acq with armed := false } } ∨
    (s.acq.armed = true ∧ inBand s.lat.thr x = true ∧ ∃ n,
      (gate x s = .discard { s with acq := { s.acq with cancelCnt := n } } ∨
       n = s.lat.cancel ∧ gate x s = .terminate .noSignal { s with acq := { s.acq with cancelCnt := n } })) := by
  unfold gate
  split
  · rename_i ha
    split
    · rename_i hb
      refine .inr ⟨ha, hb, ?_⟩
      split
      · exact ⟨s.acq.cancelCnt, .inl rfl⟩
      · simp only []
        split
        · rename_i hn
          exact ⟨_, .inr ⟨hn, rfl⟩⟩
        · exact ⟨_, .inl rfl⟩
    · exact .inl rfl
  · rename_i ha
    refine .inl ?_
    rw [← Bool.eq_false_of_not_eq_true ha]

/-- Lines 3 to 5 of 42_acquire.md R162 with a sample ready: one kick, the sample taken and processed. -/
theorem kickAndProcess_of_ready (inp : Input) (s : State) (h : inp.rxReady = true) :
    kickAndProcess inp s = processSample inp.sample (s.emit .wdtKick).consumeSample := by
  simp [kickAndProcess, pollTransmit, h]

/-- Lines 3 to 5 of 42_acquire.md R162 without a sample: one kick. -/
theorem kickAndProcess_of_not_ready (inp : Input) (s : State) (h : inp.rxReady = false) :
    kickAndProcess inp s = .pass (s.emit .wdtKick) := by
  simp [kickAndProcess, pollTransmit, h]

/-- SKIP uses the sample up while samples are left to skip, else goes on unchanged (42_acquire.md R176). -/
theorem skipSample_cases (s : State) :
    (0 < s.acq.skipLeft.toInt ∧
      skipSample s = .discard { s with acq := { s.acq with skipLeft := s.acq.skipLeft - 1#32 } }) ∨
    (s.acq.skipLeft.toInt ≤ 0 ∧ skipSample s = .pass s) := by
  unfold skipSample
  split
  · exact .inl ⟨‹_›, rfl⟩
  · exact .inr ⟨Int.not_lt.1 ‹_›, rfl⟩

/-- DECIM counts the sample, or completes a group and logs one value (42_acquire.md R178). -/
theorem decimate_cases (x : Byte) (s : State) :
    (1 < s.lat.dec.toNat ∧ (s.acq.decCounter + 1#32).toNat < s.lat.dec.toNat ∧
      decimate x s = .discard
        { s with
          acq := { s.acq with
            runningSum := s.acq.runningSum + x.setWidth 40, decCounter := s.acq.decCounter + 1#32 } }) ∨
    (∃ (v : Byte) (n : Word),
      decimate x s = logValue v { s with acq := { s.acq with runningSum := 0#40, decCounter := n } }) := by
  unfold decimate
  simp only []
  split
  · split
    · exact .inl ⟨‹_›, ‹_›, rfl⟩
    · exact .inr ⟨_, 0#32, rfl⟩
  · exact .inr ⟨_, s.acq.decCounter, rfl⟩

/-- LOG's store, on either path, inside a running call: it goes through, writes inside the capacity, and moves both
cursors to the end of the new value (42_acquire.md R180 to R182). -/
theorem storeSample_ok (v : Byte) (s : State) (hwf : s.buf.wf = true) (hin : s.buf.within s.cap = true)
    (hi : AcqInv s) (hl : s.acq.remainingBudget ≠ 0#32) :
    ∃ m : Memory, m.wf = true ∧ m.within s.cap = true ∧
      storeSample v s = .ok
        { s with
          buf := m
          acq := { s.acq with totalAccepted := s.acq.totalAccepted + 1#32 }
          bp :=
            { position := BitVec.ofNat 32 ((s.acq.totalAccepted.toNat + 1) * s.lat.bps.toNat)
              numBits := BitVec.ofNat 32 ((s.acq.totalAccepted.toNat + 1) * s.lat.bps.toNat) } } := by
  have hb := hi.balance
  have hbl := hi.budget_le
  have hc := cap_lt s
  have hpos : 0 < s.acq.remainingBudget.toNat := by
    rcases Nat.eq_zero_or_pos s.acq.remainingBudget.toNat with h | h
    · exact absurd (BitVec.eq_of_toNat_eq (by simpa using h)) hl
    · exact h
  unfold storeSample
  split
  · rename_i h8
    have hlt : s.acq.totalAccepted.toNat < s.cap := by omega
    refine ⟨s.buf.write s.acq.totalAccepted.toNat v, Memory.write_wf _ _ _ hwf,
      Memory.write_within _ _ _ _ hin hlt, ?_⟩
    have : (s.acq.totalAccepted + 1#32) * 8#32 =
        BitVec.ofNat 32 ((s.acq.totalAccepted.toNat + 1) * (8#4).toNat) := by
      apply BitVec.eq_of_toNat_eq
      simp
    simp only [storeByte, memWrite_of_lt s _ _ hlt, h8, this]
  · have hbits := hi.bits
    have hmul : (s.acq.totalAccepted.toNat + 1) * s.lat.bps.toNat ≤ s.cap * 8 :=
      Nat.mul_le_mul (by omega) hi.bps_le
    rw [Nat.add_mul] at hmul
    have hp : s.bp.position.toNat = s.acq.totalAccepted.toNat * s.lat.bps.toNat := by rw [hi.cursor]; exact hbits
    obtain ⟨m, h1, h2, -, h4⟩ :=
      bpwAll_of_fits (topBits v s.lat.bps.toNat) s hwf hin (by simp; omega) (by simp; omega)
    have e1 : s.bp.position + BitVec.ofNat 32 s.lat.bps.toNat =
        BitVec.ofNat 32 ((s.acq.totalAccepted.toNat + 1) * s.lat.bps.toNat) := by
      apply BitVec.eq_of_toNat_eq
      simp [hp, Nat.add_mul]
    refine ⟨m, h1, h2, ?_⟩
    simp only [storeBits, h4, topBits_length, ← hi.cursor, e1]

/-! ### The Manchester engines -/

/-- QUANT answers one of its two values or the value held (45_manchester.md R248). -/
theorem quantize_cases {α : Type} (high low : α) (x : Byte) (held : α) :
    133 < x.toNat ∧ quantize high low x held = high ∨
    x.toNat < 123 ∧ quantize high low x held = low ∨
    (123 ≤ x.toNat ∧ x.toNat ≤ 133) ∧ quantize high low x held = held := by
  have hhi : Config.manHi = 133 := rfl
  have hlo : Config.manLo = 123 := rfl
  unfold quantize
  split
  · exact .inl ⟨by omega, rfl⟩
  · split
    · exact .inr (.inl ⟨by omega, rfl⟩)
    · exact .inr (.inr ⟨by omega, rfl⟩)

/-- MBITS keeps everything of its registers but the two bits; the current one is the class of the sample (45_manchester.md
R256). -/
theorem updateBit_curr (x : Byte) (m : ManRegs) : (updateBit x m).curr = quantize true false x m.curr := by
  unfold updateBit quantize
  (repeat' split) <;> rfl
@[simp] theorem updateBit_noiseCnt (x : Byte) (m : ManRegs) : (updateBit x m).noiseCnt = m.noiseCnt := by
  unfold updateBit
  (repeat' split) <;> rfl
@[simp] theorem updateBit_hold (x : Byte) (m : ManRegs) : (updateBit x m).hold = m.hold := by
  unfold updateBit
  (repeat' split) <;> rfl
@[simp] theorem updateBit_period (x : Byte) (m : ManRegs) : (updateBit x m).period = m.period := by
  unfold updateBit
  (repeat' split) <;> rfl

/-! ### Several iterations -/

@[simp] theorem polls_nil (s : State) : polls [] s = .next s := rfl

/-- The first iteration of a run that goes on. -/
theorem polls_cons_of_next (w : BitVec 12) (ws : List (BitVec 12)) (s t : State) (h : pollIteration w s = .next t) :
    polls (w :: ws) s = polls ws t := by
  simp [polls, h]

/-- A run is its first part and then its second. -/
theorem polls_append_of_next (us ws : List (BitVec 12)) (s t : State) (h : polls us s = .next t) :
    polls (us ++ ws) s = polls ws t := by
  induction us generalizing s with
  | nil => cases h; rfl
  | cons u us ih =>
    simp only [List.cons_append, polls] at h ⊢
    cases hu : pollIteration u s with
    | next v => simp only [hu] at h; exact ih v h
    | fault e => simp [hu] at h
    | refused r => simp [hu] at h

end Sys2Proof.Machine
end

