-- ==== Sys2Proof/Laws/PerInstr.lean ====
section
/-! SUPPORT. What holds of every row of the opcode table as syntax (30_encoding.md R102 to R104), proved row by row. -/

namespace Sys2Proof.Laws

/-- The row's word has its opcode in bits 7:0 and nothing above; its operands fit the seven `ARG` registers; and the
family columns agree: what arms the front end runs the generic engine, and what runs an engine is looping. -/
def OpcodeRow.Statement (i : Instr) : Prop :=
  opcodeField (encode i) = i.opcode ∧ zeroField (encode i) = 0#24 ∧ i.format.operands.length ≤ 7 ∧
  (i.readlfFamily = true → i.acqFamily = true) ∧ (i.acqFamily = true → i.looping = true)

theorem OpcodeRow.cfgmerge : OpcodeRow.Statement .cfgmerge := by unfold OpcodeRow.Statement; decide
theorem OpcodeRow.cfgrd : OpcodeRow.Statement .cfgrd := by unfold OpcodeRow.Statement; decide
theorem OpcodeRow.acq : OpcodeRow.Statement .acq := by unfold OpcodeRow.Statement; decide
theorem OpcodeRow.readlf : OpcodeRow.Statement .readlf := by unfold OpcodeRow.Statement; decide
theorem OpcodeRow.reader : OpcodeRow.Statement .reader := by unfold OpcodeRow.Statement; decide
theorem OpcodeRow.sniff : OpcodeRow.Statement .sniff := by unfold OpcodeRow.Statement; decide
theorem OpcodeRow.arm : OpcodeRow.Statement .arm := by unfold OpcodeRow.Statement; decide
theorem OpcodeRow.edge : OpcodeRow.Statement .edge := by unfold OpcodeRow.Statement; decide
theorem OpcodeRow.mfill : OpcodeRow.Statement .mfill := by unfold OpcodeRow.Statement; decide
theorem OpcodeRow.mbits : OpcodeRow.Statement .mbits := by unfold OpcodeRow.Statement; decide

end Sys2Proof.Laws
end

