-- ==== Sys2Proof/Tests/Slice0.lean ====
section
/-! SUPPORT. Tests: ill-formed command lines, words written out from 30_encoding.md R103, R104 and R112, one-step tests
whose expected values are those of 95_test_vectors.md, and, for every obligation with a hypothesis, a state and operands
that meet it. -/

namespace Sys2Proof.Tests

open Sys2Proof.Machine

/-! ### Small states -/

/-- The parameters of 95_test_vectors.md's examples: `CAP = 4`, `RACE_CHECK_PERIOD = 4`. -/
def params : Config.Params :=
  { cap := 4#29, div125k := 95#8, divStd := 95#8, divHigh := 88#8, racePeriod := 4#32, settle := 0 }

/-- The machine after reset, its OPEN parameters given. -/
def idle : State :=
  { State.reset with params := params, cfg := { State.reset.cfg with divisor := params.div125k } }

/-- The idle machine with operands. -/
def idleWith (a0 a1 a2 a3 a4 a5 a6 : Word) : State := { idle with args := ⟨a0, a1, a2, a3, a4, a5, a6⟩ }

/-- The next state of an outcome. -/
def next (o : Host.Outcome State Fault Refusal) : State :=
  match o with
  | .next s => s
  | .fault _ => idle
  | .refused _ => idle

/-- A command run on the idle machine with operands. -/
def accepted (i : Instr) (a0 a1 a2 a3 a4 a5 a6 : Word) : State := next (exec i (idleWith a0 a1 a2 a3 a4 a5 a6))

/-- `ACQ dec=1 bps=8 avg=0 thr budget cancel skip`. -/
def acqCall (thr budget cancel skip : Word) : State := accepted .acq 1#32 8#32 0#32 thr budget cancel skip

/-- `EDGE`, `MFILL` or `MBITS` with a limit, at a phase and an index. -/
def limitCall (i : Instr) (limit : Word) (p : BitVec 3) (n : Word) : State :=
  { accepted i limit 0#32 0#32 0#32 0#32 0#32 0#32 with phaseReg := p, idx := n }

/-- The input word of an iteration that delivers sample `n` (30_encoding.md R112, R120). -/
def sample (n : Nat) : BitVec 12 := BitVec.ofNat 12 (0x100 + n)

/-- One poll iteration. -/
def poll (w : BitVec 12) (s : State) : State := next (pollIteration w s)

/-! ### Well-formedness -/

theorem test_line_with_too_few_operands : (CommandLine.mk .readlf [1, 0]).wellFormed = false := by decide
theorem test_line_with_too_many_operands : (CommandLine.mk .sniff [1]).countOk = false := by decide
theorem test_line_with_too_large_operand : (CommandLine.mk .edge [4294967296]).wellFormed = false := by decide
theorem test_line_with_too_small_operand : (CommandLine.mk .edge [-2147483649]).valuesOk = false := by decide
theorem test_line_at_the_bounds : (CommandLine.mk .reader [-2147483648, 4294967295]).wellFormed = true := by decide

/-! ### Words, bit by bit: `zero` 31:8, `opcode` 7:0 (30_encoding.md R103, R104) -/

theorem test_decode_cfgmerge : decode 0b00000000000000000000000000000001#32 = .ok .cfgmerge := by decide
theorem test_decode_cfgrd : decode 0b00000000000000000000000000000010#32 = .ok .cfgrd := by decide
theorem test_decode_acq : decode 0b00000000000000000000000000010000#32 = .ok .acq := by decide
theorem test_decode_readlf : decode 0b00000000000000000000000000010001#32 = .ok .readlf := by decide
theorem test_decode_reader : decode 0b00000000000000000000000000010010#32 = .ok .reader := by decide
theorem test_decode_sniff : decode 0b00000000000000000000000000010011#32 = .ok .sniff := by decide
theorem test_decode_arm : decode 0b00000000000000000000000000010100#32 = .ok .arm := by decide
theorem test_decode_edge : decode 0b00000000000000000000000000100000#32 = .ok .edge := by decide
theorem test_decode_mfill : decode 0b00000000000000000000000000110000#32 = .ok .mfill := by decide
theorem test_decode_mbits : decode 0b00000000000000000000000000110001#32 = .ok .mbits := by decide
theorem test_decode_zero_word : decode 0x00000000#32 = .error .reservedOpcode := by decide
theorem test_decode_reserved_opcodes : decode 0x00000003#32 = .error .reservedOpcode ∧
    decode 0x00000015#32 = .error .reservedOpcode ∧ decode 0x000000FF#32 = .error .reservedOpcode := by decide
theorem test_decode_upper_bits : decode 0x00000101#32 = .error .nonZeroUpper ∧
    decode 0x80000010#32 = .error .nonZeroUpper := by decide
theorem test_encode_words : encode .mbits = 0x00000031#32 ∧ encode .arm = 0x00000014#32 := by decide
theorem test_table_word : decodeTableWord 32 0x20 = some .edge ∧ decodeTableWord 32 0x120 = none := by decide
/-- The line of 30_encoding.md R119: operands to `ARG` by number, then the word to `CMD`. -/
theorem test_encode_line : encodeLine ⟨.readlf, [1, -1, 2]⟩ =
    [(3, 1#32), (4, 0xFFFFFFFF#32), (5, 2#32), (0, 0x11#32)] := by decide
/-- Input words of 95_test_vectors.md: 0x505 is an abort with sample 5, 0x9C8 a `dataAvail` with sample 200. -/
theorem test_input_words : decodeInput 0x505#12 = ⟨5#8, true, false, true, false⟩ ∧
    decodeInput 0x9C8#12 = ⟨200#8, true, false, false, true⟩ ∧ encodeInput ⟨1#8, true, true, false, false⟩ = 0x301#12 := by
  decide

/-! ### The host's two questions on the first step after reset -/

theorem test_first_step_runs_arm : ∃ t, step (State.reset.withFetchWord 32 0x14) = .next t ∧ t.op = 0x14#8 ∧
    t.cause = .done ∧ t.busy = false := ⟨_, rfl, rfl, rfl, rfl⟩
theorem test_first_step_runs_edge : ∃ t, step (State.reset.withFetchWord 32 0x20) = .next t ∧ t.op = 0x20#8 ∧
    t.cause = .none ∧ t.busy = true := ⟨_, rfl, rfl, rfl, rfl⟩
theorem test_illegal_word : step (idle.withFetchWord 32 0x21) = .next { idle with ill := true } := rfl
theorem test_command_during_a_call : exec .arm (acqCall 0#32 1#32 0#32 0#32) =
    .next { acqCall 0#32 1#32 0#32 0#32 with rej := true } := rfl

/-! ### One step of each command -/

/-- V21. -/
theorem test_cfgmerge_in_domain : (accepted .cfgmerge 7#32 1#32 0#32 19#32 127#32 5#32 0#32).cfg =
    ⟨7#3, 1#4, false, 19#8, 127#32, 5#32, false⟩ := by decide
/-- V22. -/
theorem test_cfgmerge_out_of_domain :
    (accepted .cfgmerge 8#32 9#32 2#32 18#32 0x80000000#32 0xFFFFFFFF#32 2#32).cfg = idle.cfg ∧
    (accepted .cfgmerge 8#32 9#32 2#32 18#32 0x80000000#32 0xFFFFFFFF#32 2#32).trace = [.diag .config] := by decide
/-- V27. -/
theorem test_cfgrd : (next (exec .cfgrd idle)).args = ⟨1#32, 8#32, 1#32, 95#32, 0#32, 0#32, 1#32⟩ ∧
    statusWord (next (exec .cfgrd idle)) = 0x00000210#32 := by decide
/-- V40: the budget is clamped. -/
theorem test_acq_clamps : (acqCall 0#32 0xFFFFFFFF#32 0#32 0#32).lat.budget = 4#32 := by decide
/-- V53: with the threshold 127 the sample 0 fires, and is logged. -/
theorem test_acq_trigger : (poll (sample 0) (acqCall 127#32 1#32 0#32 0#32)).result = 8#32 ∧
    statusWord (poll (sample 1) (acqCall 127#32 1#32 0#32 0#32)) = 0x00001001#32 := by decide
/-- V61: the arming sequence with the field on. -/
theorem test_readlf : (accepted .readlf 1#32 0#32 2#32 0#32 0#32 0#32 0#32).trace =
    [.feLoadBitstream, .feSetDivisor 95#8, .feSetMode true, .feRoutePeak, .waitSettle, .feStartClock] := by decide
/-- V62: READER aborted. -/
theorem test_reader_abort :
    (poll 0x400#12 { accepted .reader 1#32 4#32 0#32 0#32 0#32 0#32 0#32 with trace := [] }).trace =
      [.postOffset 0#32, .postScore 0#32, .feOff, .diag .summary] := by decide
/-- V64: SNIFF takes the whole buffer, field off. -/
theorem test_sniff : (next (exec .sniff idle)).lat.budget = 4#32 ∧
    (next (exec .sniff idle)).trace =
      [.feLoadBitstream, .feSetDivisor 95#8, .feSetMode false, .feRoutePeak, .feStartClock] := by decide
/-- V60: the divisors 18 and 255. -/
theorem test_arm : (accepted .arm 18#32 0#32 0#32 0#32 0#32 0#32 0#32).trace[1]? = some (.feSetDivisor 88#8) ∧
    (accepted .arm 255#32 5#32 0#32 0#32 0#32 0#32 0#32).trace[1]? = some (.feSetDivisor 255#8) := by decide
/-- V70: 188 is discarded, 189 crosses. -/
theorem test_edge_high : (poll (sample 188) (limitCall .edge 4#32 0#3 0#32)).edge.skipCnt = 1#32 ∧
    (poll (sample 189) (limitCall .edge 4#32 0#3 0#32)).phaseReg = 2#3 := by decide
/-- S8, V80: the remembered sample is the first byte. -/
theorem test_edge_transition :
    (poll (sample 74) { limitCall .edge 3#32 3#3 0#32 with edge := ⟨40#8, 0#32⟩ }).buf = ⟨[(0, 40#8), (1, 74#8)]⟩ := by decide
/-- V94: 133 and 123 hold. -/
theorem test_mfill_holds :
    (poll (sample 133) { limitCall .mfill 3#32 2#3 1#32 with man.hold := 255#8 }).buf = ⟨[(1, 255#8)]⟩ ∧
    (poll (sample 122) { limitCall .mfill 3#32 2#3 1#32 with man.hold := 255#8 }).man.hold = 0#8 := by decide
/-- S9: the sample that ends a period decides an all but finished bit. -/
theorem test_mbits_emits :
    (poll (sample 255) { limitCall .mbits 2#32 2#3 1#32 with man.period := 1#32 }).buf = ⟨[(1, 1#8)]⟩ ∧
    (poll (sample 128) { limitCall .mbits 2#32 2#3 1#32 with man.period := 2#32 }).man.period = 1#32 := by decide

/-! ### The BitPacker -/

/-- V3: position 10, `BUF[1] = 0xFF`. -/
theorem test_bpw_clears : bpw false { idle with buf := ⟨[(1, 0xFF#8)]⟩, bp := ⟨10#32, 10#32⟩ } =
    .ok { idle with buf := ⟨[(1, 0xDF#8)]⟩, bp := ⟨11#32, 11#32⟩ } := by decide
/-- V1: nine bits. -/
theorem test_bpw_stream : bpwAll [true, false, true, true, false, false, true, false, true] idle =
    .ok { idle with buf := ⟨[(0, 0xB2#8), (1, 0x80#8)]⟩, bp := ⟨9#32, 9#32⟩ } := by decide

/-! ### States that meet the obligations' hypotheses

One theorem for each obligation that has hypotheses; where it has several clauses, one conjunct or case for each, at the
boundary values of the clause. -/

/-- Fields of ACQ at a point of a call: armed, cancel count, race count, samples left to skip, budget left. -/
def acqAt (thr budget cancel : Word) (armed : Bool) (cc rc skip left : Word) : State :=
  { acqCall thr budget cancel 0#32 with acq := ⟨armed, cc, rc, skip, left, 0#32, 0#40, 0#32⟩ }

theorem witness_DecodeAndEncodeAgreeOnCommands : decode 0x31#32 = .ok .mbits ∧ 2 ^ 8 ≤ (0x100#32).toNat ∧
    (0xFF#32).toNat < 2 ^ 8 ∧ 0xFF ∉ [0x01, 0x02, 0x10, 0x11, 0x12, 0x13, 0x14, 0x20, 0x30, 0x31] := by decide

theorem witness_CommandLineRunsAsItsAccesses : ∃ (s : State) (c : CommandLine) (rest : List Move),
    c.wellFormed = true ∧ c.operands = [0, -1, 4294967295] ∧
    s.pending = ((encodeLine c).map fun p => Move.write p.1 p.2) ++ rest :=
  ⟨{ idle with pending := [.write 3 0#32, .write 4 0xFFFFFFFF#32, .write 5 0xFFFFFFFF#32, .write 0 0x11#32] },
    ⟨.readlf, [0, -1, 4294967295]⟩, [], by decide, rfl, by decide⟩

theorem witness_StepRunsTheDecodedCommand : ∃ (s : State) (w : Word) (rest : List Move) (i : Instr),
    s.pending = .write 0 w :: rest ∧ decode w = .ok i :=
  ⟨{ idle with pending := [.write 0 0x20#32] }, 0x20#32, [], .edge, by decide, by decide⟩

theorem witness_StepPollsWithTheGivenOrAFreeInput :
    ({ idle with pending := [.poll 0xFFF#12] } : State).pending = .poll 0xFFF#12 :: [] ∧
    ((acqCall 0#32 1#32 0#32 0#32).pending = [] ∧ (acqCall 0#32 1#32 0#32 0#32).busy = true) ∧
    (idle.pending = [] ∧ idle.busy = false) := by decide

theorem witness_IllegalWordSetsOnlyIll : ∃ (s : State) (w : Word) (rest : List Move), s.pending = .write 0 w :: rest ∧
    w.toNat ∉ [0x01, 0x02, 0x10, 0x11, 0x12, 0x13, 0x14, 0x20, 0x30, 0x31] ∧ s.busy = true :=
  ⟨{ acqCall 0#32 1#32 0#32 0#32 with pending := [.write 0 0x132#32] }, 0x132#32, [], rfl, by decide, by decide⟩

theorem witness_RunningCallRejectsEveryCommand : (acqCall 0#32 1#32 0#32 0#32).busy = true := by decide

theorem witness_HostReadReturnsTheRegister : ∀ n ∈ [0, 1, 2, 3, 9, 10, 11],
    ({ idle with pending := [.read n] } : State).pending = .read n :: [] ∧
    (n = 0 ∨ n = 1 ∨ n = 2 ∨ (∃ k : Fin 7, n = 3 + k.val) ∨ n = 10 ∨ 10 < n) := by decide

theorem witness_HostWriteReachesOnlyArg : ∀ n ∈ [1, 2, 3, 9, 10, 11],
    ({ idle with pending := [.write n 7#32] } : State).pending = .write n 7#32 :: [] ∧ n ≠ 0 := by decide

theorem witness_HostReadsABufferByte :
    ({ idle with pending := [.readByte 3] } : State).pending = .readByte 3 :: [] ∧ 3 < idle.cap ∧
    ({ idle with pending := [.readByte 4] } : State).pending = .readByte 4 :: [] ∧ idle.cap ≤ 4 := by decide

/-- For the statements whose only hypothesis is an idle block: IdlePollChangesNothing,
CfgmergeMergesEachFieldByItself, CfgrdCopiesTheFieldsToArg, ArmEmitsTheArmingSequence, AcqStartsACall, EdgeStartsACall
and AcceptanceForgetsEarlierCalls. -/
theorem witness_idle : idle.busy = false := by decide

theorem idle_config : ConfigInv idle.cfg := by constructor <;> decide

theorem witness_CfgrdThenCfgmergeChangesNoField : ∃ s : State, s.busy = false ∧ ConfigInv s.cfg :=
  ⟨idle, by decide, idle_config⟩

theorem witness_FrontEndCommandsStartACall : ∀ i ∈ [Instr.readlf, .reader, .sniff],
    ∃ (s : State) (field verbose : Bool) (budget : Nat), s.busy = false ∧ 19 ≤ s.cfg.divisor.toNat ∧
    (i = .readlf ∧ (field = true ↔ s.args.arg0.toNat ≠ 0) ∧ (verbose = true ↔ s.args.arg1.toNat ≠ 0) ∧
        budget = s.args.arg2.toNat ∨
     i = .reader ∧ field = true ∧ (verbose = true ↔ s.args.arg0.toNat ≠ 0) ∧ budget = s.args.arg1.toNat ∨
     i = .sniff ∧ field = false ∧ verbose = true ∧ budget = 0xFFFFFFFF) := by
  intro i hi
  let s : State := { idleWith 0#32 1#32 0xFFFFFFFF#32 0#32 0#32 0#32 0#32 with cfg.divisor := 19#8 }
  rcases List.mem_cons.1 hi with rfl | hi
  · exact ⟨s, false, true, 0xFFFFFFFF, by decide, by decide, by decide⟩
  · rcases List.mem_cons.1 hi with rfl | hi
    · exact ⟨s, true, false, 1, by decide, by decide, by decide⟩
    · rw [List.mem_singleton.1 hi]
      exact ⟨s, false, true, 0xFFFFFFFF, by decide, by decide, by decide⟩

theorem witness_ReaderAndSniffExpandToReadlf :
    (∃ t, exec .reader idle = .next t) ∧ (∃ t, exec .sniff idle = .next t) ∧ idle.busy = false ∧ 1#32 ≠ 0#32 ∧
    (accepted .readlf 1#32 0#32 1#32 0#32 0#32 0#32 0#32).op = Instr.readlf.opcode ∧
    (∃ t, pollIteration (sample 9) (accepted .readlf 1#32 0#32 1#32 0#32 0#32 0#32 0#32) = .next t ∧ t.busy = false) :=
  ⟨⟨_, rfl⟩, ⟨_, rfl⟩, by decide, by decide, by decide, _, rfl, by decide⟩

theorem witness_AbortEndsAnAcquisitionAtOnce : ∀ i ∈ [Instr.acq, .readlf, .reader, .sniff],
    (next (exec i idle)).busy = true ∧ (next (exec i idle)).op = i.opcode ∧
    (i = .acq ∨ i = .readlf ∨ i = .reader ∨ i = .sniff) ∧ (decodeInput 0x400#12).abort = true := by decide

/-- Armed at the period, armed one before it, and not armed; inputs with and without a sample and with `dataAvail`. -/
theorem witness_RaceCheckEveryPeriodWhileArmed :
    (∀ s ∈ [acqAt 5#32 1#32 0#32 true 0#32 3#32 0#32 1#32, acqAt 5#32 1#32 0#32 true 0#32 2#32 0#32 1#32],
      s.busy = true ∧ s.op = Instr.acq.opcode ∧ s.acq.armed = true) ∧
    (acqAt 5#32 1#32 0#32 true 0#32 3#32 0#32 1#32).acq.raceCnt + 1#32 = params.racePeriod ∧
    (acqAt 5#32 1#32 0#32 true 0#32 2#32 0#32 1#32).acq.raceCnt + 1#32 ≠ params.racePeriod ∧
    (acqCall 0#32 1#32 0#32 0#32).acq.armed = false ∧
    (∀ w ∈ [0x000#12, 0x105#12, 0x800#12, 0x905#12], (decodeInput w).abort = false) ∧
    (∀ w ∈ [0x105#12, 0x905#12], (decodeInput w).rxReady = true) ∧
    (∀ w ∈ [0x000#12, 0x800#12], (decodeInput w).rxReady = false) ∧
    (∀ w ∈ [0x800#12, 0x905#12], (decodeInput w).dataAvail = true) ∧
    (∀ w ∈ [0x000#12, 0x105#12], (decodeInput w).dataAvail = false) := by decide

/-- Threshold 20: 148 and 108 are on the band's edges, 149 and 107 outside; cancel limit 3, the counts 1 and 2. -/
theorem witness_SampleGoesThroughGateAndSkip :
    (acqAt 20#32 0#32 0#32 true 0#32 0#32 0#32 0#32).acq.remainingBudget = 0#32 ∧
    (∀ s ∈ [acqAt 20#32 1#32 0#32 true 0#32 0#32 0#32 1#32, acqAt 20#32 1#32 3#32 true 1#32 0#32 0#32 1#32,
        acqAt 20#32 1#32 3#32 true 2#32 0#32 0#32 1#32],
      s.acq.remainingBudget ≠ 0#32 ∧ s.acq.armed = true ∧
      (∀ x ∈ [148#8, 108#8], -s.lat.thr.toInt ≤ (x.toNat : Int) - 128 ∧ (x.toNat : Int) - 128 ≤ s.lat.thr.toInt) ∧
      (∀ x ∈ [149#8, 107#8],
        ¬(-s.lat.thr.toInt ≤ (x.toNat : Int) - 128 ∧ (x.toNat : Int) - 128 ≤ s.lat.thr.toInt))) ∧
    (acqAt 20#32 1#32 0#32 true 0#32 0#32 0#32 1#32).lat.cancel = 0#32 ∧
    (acqAt 20#32 1#32 3#32 true 1#32 0#32 0#32 1#32).acq.cancelCnt + 1#32 ≠ 3#32 ∧
    (acqAt 20#32 1#32 3#32 true 2#32 0#32 0#32 1#32).acq.cancelCnt + 1#32 = 3#32 ∧
    0 < (acqAt 20#32 1#32 0#32 false 0#32 0#32 1#32 1#32).acq.skipLeft.toInt ∧
    (acqAt 20#32 1#32 0#32 false 0#32 0#32 0#32 1#32).acq.skipLeft.toInt ≤ 0 ∧
    (acqAt 20#32 1#32 0#32 false 0#32 0#32 0#32 1#32).acq.armed = false := by decide

theorem witness_ExtremeThresholdsNeverFire :
    ((acqCall 128#32 1#32 0#32 0#32).acq.armed = true ∧ 128 ≤ (acqCall 128#32 1#32 0#32 0#32).lat.thr.toInt) ∧
    ((acqCall 127#32 1#32 0#32 0#32).acq.armed = true ∧ (acqCall 127#32 1#32 0#32 0#32).lat.thr.toInt = 127) := by decide

theorem witness_DecimatorLogsOneValuePerGroup : ∃ (s : State) (xs : List Byte),
    s.acq.decCounter = 0#32 ∧ s.acq.runningSum = 0#40 ∧ xs.length + 1 = s.lat.dec.toNat ∧ s.lat.avg = true ∧ xs ≠ [] :=
  ⟨accepted .acq 3#32 8#32 1#32 0#32 3#32 0#32 0#32, [10#8, 20#8], by decide⟩

theorem acqCall_inv : AcqInv (acqCall 0#32 1#32 0#32 0#32) := by constructor <;> decide

theorem witness_LogPacksTheTopBits : ∃ s : State, AcqInv s ∧ s.buf.wf = true ∧ s.acq.remainingBudget = 1#32 :=
  ⟨acqCall 0#32 1#32 0#32 0#32, acqCall_inv, by decide, by decide⟩

theorem witness_FastPathEqualsBitByBitPath :
    ∃ s : State, AcqInv s ∧ s.buf.wf = true ∧ s.lat.bps = 8#4 ∧ s.acq.remainingBudget ≠ 0#32 :=
  ⟨acqCall 0#32 1#32 0#32 0#32, acqCall_inv, by decide, by decide, by decide⟩

theorem witness_BpwWritesOneBit : idle.buf.wf = true ∧
    ({ idle with bp := ⟨31#32, 31#32⟩ } : State).bp.position.toNat / 8 < idle.cap ∧
    idle.cap ≤ ({ idle with bp := ⟨32#32, 32#32⟩ } : State).bp.position.toNat / 8 := by decide

theorem witness_BitPackerWritesTheStream : idle.buf.wf = true ∧ (List.replicate 32 true).length ≤ 8 * idle.cap := by decide

/-- EDGE at the limit; at 1000 discards; aborted at 999; and without a sample. -/
theorem witness_EdgeIterationTests :
    (∀ s ∈ [limitCall .edge 1#32 4#3 1#32, limitCall .edge 1#32 0#3 0#32], s.busy = true ∧ s.op = Instr.edge.opcode) ∧
    (limitCall .edge 1#32 4#3 1#32).lat.limit.toNat ≤ (limitCall .edge 1#32 4#3 1#32).idx.toNat ∧
    (limitCall .edge 1#32 0#3 0#32).idx.toNat < (limitCall .edge 1#32 0#3 0#32).lat.limit.toNat ∧
    1000 ≤ ({ limitCall .edge 1#32 0#3 0#32 with edge := ⟨0#8, 1000#32⟩ } : State).edge.skipCnt.toNat ∧
    ({ limitCall .edge 1#32 0#3 0#32 with edge := ⟨0#8, 999#32⟩ } : State).edge.skipCnt.toNat < 1000 ∧
    (decodeInput 0x500#12).abort = true ∧ (decodeInput 0x000#12).abort = false ∧
    (decodeInput 0x000#12).rxReady = false := by decide

/-- Every phase and every `idx` below the limit 4, and the samples at the thresholds of every phase. -/
theorem witness_EdgeSampleRules :
    (∀ (p : BitVec 3) (n : Word), n.toNat < 4 → ∃ s : State, s.busy = true ∧ s.op = Instr.edge.opcode ∧ s.phaseReg = p ∧
      s.idx = n ∧ s.idx.toNat < s.lat.limit.toNat ∧ s.lat.limit.toNat ≤ s.cap ∧ s.edge.skipCnt.toNat < 1000 ∧
      s.lat.limit.toNat = 4) ∧
    (∀ n ∈ [188, 189, 67, 68, 73, 74], (decodeInput (sample n)).sample.toNat = n ∧
      (decodeInput (sample n)).abort = false ∧ (decodeInput (sample n)).rxReady = true) :=
  ⟨fun p n h => ⟨limitCall .edge 4#32 p n, rfl, rfl, rfl, rfl, h, Nat.le_refl 4, (by decide : (0#32).toNat < 1000), rfl⟩,
    by decide⟩

theorem witness_EdgeGivesUpAfterAThousandDiscards : ∃ (s : State) (ws : List (BitVec 12)),
    s.busy = true ∧ s.op = Instr.edge.opcode ∧ s.phaseReg = 0#3 ∧ s.idx = 0#32 ∧ s.edge.skipCnt = 0#32 ∧
    0 < s.lat.limit.toNat ∧ ws.length = 1000 ∧
    (∀ v ∈ ws, (decodeInput v).rxReady = true ∧ (decodeInput v).abort = false ∧ (decodeInput v).sample.toNat ≤ 188) := by
  refine ⟨limitCall .edge 4#32 0#3 0#32, List.replicate 1000 (sample 188), by decide, by decide, by decide, by decide,
    by decide, by decide, List.length_replicate, fun v hv => ?_⟩
  rw [List.eq_of_mem_replicate hv]
  decide

theorem witness_ManchesterCommandsStartACall : idle.busy = false ∧ ∀ i ∈ [Instr.mfill, .mbits], i = .mfill ∨ i = .mbits := by
  decide

theorem witness_ManchesterIterationTests : ∀ i ∈ [Instr.mfill, .mbits],
    (∀ s ∈ [limitCall i 1#32 2#3 1#32, limitCall i 1#32 0#3 0#32], s.busy = true ∧ s.op = i.opcode) ∧
    (limitCall i 1#32 2#3 1#32).lat.limit.toNat ≤ (limitCall i 1#32 2#3 1#32).idx.toNat ∧
    (limitCall i 1#32 0#3 0#32).idx.toNat < (limitCall i 1#32 0#3 0#32).lat.limit.toNat ∧
    768 < ({ limitCall i 1#32 0#3 0#32 with man.noiseCnt := 769#32 } : State).man.noiseCnt.toNat ∧
    ({ limitCall i 1#32 0#3 0#32 with man.noiseCnt := 768#32 } : State).man.noiseCnt.toNat ≤ 768 ∧
    (decodeInput 0x500#12).abort = true ∧ (decodeInput 0x000#12).abort = false ∧
    (decodeInput 0x000#12).rxReady = false := by decide

theorem witness_ManchesterPeakSearch : ∀ i ∈ [Instr.mfill, .mbits], ∀ p ∈ [0#3, 1#3],
    (limitCall i 1#32 p 0#32).busy = true ∧ (limitCall i 1#32 p 0#32).op = i.opcode ∧
    (limitCall i 1#32 p 0#32).phaseReg = p ∧
    (limitCall i 1#32 p 0#32).idx.toNat < (limitCall i 1#32 p 0#32).lat.limit.toNat ∧
    (limitCall i 1#32 p 0#32).man.noiseCnt.toNat ≤ 768 ∧
    (∀ n ∈ [133, 134, 122, 123], (decodeInput (sample n)).sample.toNat = n ∧ (decodeInput (sample n)).abort = false ∧
      (decodeInput (sample n)).rxReady = true) := by decide

theorem witness_MfillWritesOneByteASample :
    ((limitCall .mfill 4#32 2#3 3#32).busy = true ∧ (limitCall .mfill 4#32 2#3 3#32).op = Instr.mfill.opcode ∧
      (limitCall .mfill 4#32 2#3 3#32).phaseReg = 2#3) ∧
    ((limitCall .mfill 4#32 2#3 3#32).idx.toNat < (limitCall .mfill 4#32 2#3 3#32).lat.limit.toNat ∧
      (limitCall .mfill 4#32 2#3 3#32).lat.limit.toNat ≤ (limitCall .mfill 4#32 2#3 3#32).cap ∧
      (limitCall .mfill 4#32 2#3 3#32).man.noiseCnt.toNat ≤ 768) ∧
    (∀ n ∈ [122, 123, 133, 134], (decodeInput (sample n)).abort = false ∧ (decodeInput (sample n)).rxReady = true) :=
  ⟨by decide, by decide, by decide⟩

theorem witness_MbitsEmitsOneBitAPeriod : ∃ (s : State) (ws : List (BitVec 12)),
    s.busy = true ∧ s.op = Instr.mbits.opcode ∧ s.phaseReg = 2#3 ∧ s.man.period = 384#32 ∧ s.man.noiseCnt.toNat ≤ 768 ∧
    s.idx.toNat < s.lat.limit.toNat ∧ s.lat.limit.toNat ≤ s.cap ∧ ws.length = 384 ∧
    (∀ v ∈ ws, (decodeInput v).rxReady = true ∧ (decodeInput v).abort = false) := by
  refine ⟨limitCall .mbits 4#32 2#3 3#32, List.replicate 384 (sample 134), by decide, by decide, by decide, by decide,
    by decide, by decide, by decide, List.length_replicate, fun v hv => ?_⟩
  rw [List.eq_of_mem_replicate hv]
  decide

theorem witness_ManchesterNoiseTimesOut : ∀ i ∈ [Instr.mfill, .mbits], ∃ (s : State) (ws : List (BitVec 12)),
    s.busy = true ∧ s.op = i.opcode ∧ (i = .mfill ∨ i = .mbits) ∧ s.phaseReg = 0#3 ∧ s.idx = 0#32 ∧
    s.man.noiseCnt = 0#32 ∧ 0 < s.lat.limit.toNat ∧ ws.length = 769 ∧
    (∀ v ∈ ws, (decodeInput v).rxReady = true ∧ (decodeInput v).abort = false ∧ (decodeInput v).sample.toNat ≤ 133) := by
  intro i hi
  have h : (limitCall i 1#32 0#3 0#32).busy = true ∧ (limitCall i 1#32 0#3 0#32).op = i.opcode ∧
      (i = .mfill ∨ i = .mbits) ∧ (limitCall i 1#32 0#3 0#32).phaseReg = 0#3 ∧ (limitCall i 1#32 0#3 0#32).idx = 0#32 ∧
      (limitCall i 1#32 0#3 0#32).man.noiseCnt = 0#32 ∧ 0 < (limitCall i 1#32 0#3 0#32).lat.limit.toNat := by
    revert i
    decide
  obtain ⟨h1, h2, h3, h4, h5, h6, h7⟩ := h
  refine ⟨_, List.replicate 769 (sample 133), h1, h2, h3, h4, h5, h6, h7, List.length_replicate, fun v hv => ?_⟩
  rw [List.eq_of_mem_replicate hv]
  decide

theorem witness_TerminatingStepOfEveryCommand : ∀ i ∈ [Instr.acq, .readlf, .reader, .sniff, .edge, .mfill, .mbits],
    (next (exec i idle)).op = i.opcode ∧ i.looping = true := by decide

/-- A legal state in a call of the generic engine, its budget one sample, the next move a delivered sample. -/
theorem acqCall_legal : ({ acqCall 0#32 1#32 0#32 0#32 with pending := [.poll (sample 7)] } : State).Inv where
  sequencer := ⟨.inr ⟨.acq, by decide⟩, by decide, by decide, by decide⟩
  phase := ⟨by decide, by decide, by decide⟩
  buffer := ⟨by decide, by decide, fun n h => nomatch (show (none : Option Word) = some n from h)⟩
  params := by decide
  config := by constructor <;> decide
  acq := fun _ => by constructor <;> decide
  edge := fun h => absurd h.2 (by decide)
  man := fun h => absurd h.2 (by decide)

/-- Legal states in calls of EDGE and of MFILL, at 999 discards and at 769 noise samples. -/
theorem edge_legal : ({ limitCall .edge 1#32 1#3 0#32 with edge := ⟨0#8, 1000#32⟩ } : State).Inv where
  sequencer := ⟨.inr ⟨.edge, by decide⟩, by decide, by decide, by decide⟩
  phase := ⟨by decide, by decide, by decide⟩
  buffer := ⟨by decide, by decide, fun n h => nomatch (show (none : Option Word) = some n from h)⟩
  params := by decide
  config := by constructor <;> decide
  acq := fun h => absurd h.2 (by decide)
  edge := fun _ => by constructor <;> decide
  man := fun h => absurd h.2 (by decide)

theorem mfill_legal : ({ limitCall .mfill 1#32 0#3 0#32 with man.noiseCnt := 769#32 } : State).Inv where
  sequencer := ⟨.inr ⟨.mfill, by decide⟩, by decide, by decide, by decide⟩
  phase := ⟨by decide, by decide, by decide⟩
  buffer := ⟨by decide, by decide, fun n h => nomatch (show (none : Option Word) = some n from h)⟩
  params := by decide
  config := by constructor <;> decide
  acq := fun h => absurd h.2 (by decide)
  edge := fun h => absurd h.2 (by decide)
  man := fun _ => by constructor <;> decide

/-- A call that ends DONE with a whole budget, one that ends NO_EDGE and one that ends NOISE_TIMEOUT; likewise for
FrameOfAPollIteration. -/
theorem witness_ResultForEachCause :
    (∃ (s t : State) (w : BitVec 12), s.Inv ∧ s.busy = true ∧ pollIteration w s = .next t ∧ t.busy = false ∧
      t.cause = .done ∧ opIs Instr.acqFamily s = true) ∧
    (∃ (s t : State) (w : BitVec 12), s.Inv ∧ s.busy = true ∧ pollIteration w s = .next t ∧ t.busy = false ∧
      t.cause = .noEdge) ∧
    (∃ (s t : State) (w : BitVec 12), s.Inv ∧ s.busy = true ∧ pollIteration w s = .next t ∧ t.busy = false ∧
      t.cause = .noiseTimeout) :=
  ⟨⟨_, _, sample 7, acqCall_legal, by decide, rfl, by decide, by decide, by decide⟩,
    ⟨_, _, sample 7, edge_legal, by decide, rfl, by decide, by decide⟩,
    ⟨_, _, sample 7, mfill_legal, by decide, rfl, by decide, by decide⟩⟩

theorem witness_EveryStepKeepsLegality : ∃ s t : State, s.Inv ∧ step s = .next t :=
  ⟨_, _, acqCall_legal, rfl⟩

theorem witness_NoStepOverrunsTheBuffer : ∃ s : State, s.Inv := ⟨_, acqCall_legal⟩

/-- For PhaseNeverFallsWithinACall, CallReadsItsLatchesOnly and KickAndConsumptionOfAnIteration: an iteration of a call
whose trigger fires. -/
theorem witness_poll_of_a_call : ∃ (s t : State) (w : BitVec 12), s.busy = true ∧ pollIteration w s = .next t ∧
    s.acq.armed = true ∧ t.acq.armed = false ∧ t.busy = true :=
  ⟨acqCall 5#32 2#32 0#32 0#32, _, sample 200, by decide, rfl, by decide, by decide, by decide⟩

theorem witness_UnreadInputsHaveNoEffect : ∃ v w : BitVec 12, v ≠ w ∧ (decodeInput v).abort = (decodeInput w).abort ∧
    (decodeInput v).rxReady = (decodeInput w).rxReady ∧
    ((decodeInput v).rxReady = true → (decodeInput v).sample = (decodeInput w).sample) ∧
    (decodeInput v).dataAvail = (decodeInput w).dataAvail :=
  ⟨0x200#12, 0x0FF#12, by decide⟩

theorem witness_FrameOfAPollIteration : ∀ i ∈ [Instr.acq, .edge, .mfill], ∃ (s t : State) (w : BitVec 12),
    s.op = i.opcode ∧ s.Inv ∧ s.busy = true ∧ pollIteration w s = .next t := by
  intro i hi
  rcases List.mem_cons.1 hi with rfl | hi
  · exact ⟨_, _, sample 7, by decide, acqCall_legal, by decide, rfl⟩
  · rcases List.mem_cons.1 hi with rfl | hi
    · exact ⟨_, _, sample 7, by decide, edge_legal, by decide, rfl⟩
    · rw [List.mem_singleton.1 hi]
      exact ⟨_, _, sample 7, by decide, mfill_legal, by decide, rfl⟩

theorem witness_OnlyCommandsStartAndPollsEndCalls :
    (∃ s t : State, step s = .next t ∧ s.busy = false ∧ t.busy = true) ∧
    (∃ s t : State, step s = .next t ∧ s.busy = true ∧ t.busy = false ∧ t.result ≠ s.result) ∧
    (∃ s t : State, step s = .next t ∧ s.busy = false ∧ t.result ≠ s.result) :=
  ⟨⟨{ idle with pending := [.write 0 0x30#32] }, _, rfl, by decide, by decide⟩,
    ⟨{ acqCall 0#32 1#32 0#32 0#32 with pending := [.poll (sample 7)] }, _, rfl, by decide, by decide, by decide⟩,
    ⟨{ idle with pending := [.write 0 0x02#32], result := 8#32 }, _, rfl, by decide, by decide⟩⟩

theorem witness_OnlyTheNamedWritersChangeRegisters :
    (∃ s t : State, step s = .next t ∧ t.cfg ≠ s.cfg) ∧ (∃ s t : State, step s = .next t ∧ t.args ≠ s.args) ∧
    (∃ s t : State, step s = .next t ∧ s.ill = true ∧ s.rej = true) ∧
    (∃ s t : State, step s = .next t ∧ s.ill = false ∧ t.ill = true) ∧
    (∃ s t : State, step s = .next t ∧ s.rej = false ∧ t.rej = true) :=
  ⟨⟨{ idleWith 2#32 0#32 0#32 0#32 0#32 0#32 0#32 with pending := [.write 0 0x01#32] }, _, rfl, by decide⟩,
    ⟨{ idle with pending := [.write 9 1#32] }, _, rfl, by decide⟩,
    ⟨{ idle with ill := true, rej := true }, _, rfl, by decide, by decide⟩,
    ⟨{ idle with pending := [.write 0 0x00#32] }, _, rfl, by decide, by decide⟩,
    ⟨{ acqCall 0#32 1#32 0#32 0#32 with pending := [.write 0 0x01#32] }, _, rfl, by decide, by decide⟩⟩

theorem witness_OffsetRemovalStaysInItsRegion :
    ({ idle with pending := [.removeOffset] } : State).pending = .removeOffset :: [] ∧ idle.buf.wf = true ∧
    idle.postDue = none ∧ (4#32).toNat ≤ idle.cap ∧
    ({ idle with pending := [.removeOffset], postDue := some 4#32 } : State).postDue = some 4#32 := by decide

end Sys2Proof.Tests
end

section
/-! The step by what the environment's list of moves holds, and poll iterations of an idle block: what later proofs use
instead of unfolding `step`, `freePoll` and `pollIteration`. -/

namespace Sys2Proof.Machine

/-- With `BUSY = 0` no engine runs (00_scope.md R15). -/
theorem pollIteration_of_idle (w : BitVec 12) (s : State) (hb : s.busy = false) : pollIteration w s = .next s := by
  simp [pollIteration, hb]

theorem freePoll_of_busy (s : State) (hb : s.busy = true) :
    freePoll s = pollIteration (Config.freeInput s.freeIndex) { s with freeIndex := s.freeIndex + 1 } := by
  simp [freePoll, hb]

theorem freePoll_of_idle (s : State) (hb : s.busy = false) : freePoll s = .next s := by
  simp [freePoll, hb]

/-- A move the environment gives is taken off its list and performed. -/
theorem step_of_pending_cons (s : State) (m : Move) (rest : List Move) (hp : s.pending = m :: rest) :
    step s = perform m { s with pending := rest } := by
  simp [step, hp]

/-- Where the environment gives no move, the step is a poll iteration with a free input (log 5). -/
theorem step_of_pending_nil (s : State) (hp : s.pending = []) : step s = freePoll s := by
  simp [step, hp]

@[simp] theorem perform_poll (w : BitVec 12) (s : State) : perform (.poll w) s = pollIteration w s := rfl

end Sys2Proof.Machine

open Sys2Proof Sys2Proof.Machine

/-- Settles O6, by what the environment's list holds: a poll input, or no move in a running or in an idle block. -/
theorem stepPollsWithTheGivenOrAFreeInput : Obligations.StepPollsWithTheGivenOrAFreeInput := by
  refine ⟨fun s w rest hp => ?given, fun s hp hb => ?free, fun s hp hb => ?idle⟩
  case given => rw [step_of_pending_cons s _ rest hp, perform_poll]
  case free => rw [step_of_pending_nil s hp, freePoll_of_busy s hb]
  case idle => rw [step_of_pending_nil s hp, freePoll_of_idle s hb]

/-- Settles O13: the poll iteration tests `BUSY` before it looks at the input. -/
theorem idlePollChangesNothing : Obligations.IdlePollChangesNothing :=
  fun s w hb => pollIteration_of_idle w s hb

end

section
/-! What the lines of a poll iteration may change, once for every line: the working registers of the engines, the
buffer, the trace and the sample count, and `PHASE` only upwards (10_state.md R22, R23). -/

namespace Sys2Proof.Machine

/-! ### The relation -/

/-- `t` has every field of `s` but the working registers, the buffer, the trace and the sample count. -/
def CallFrame (s t : State) : Prop :=
  t =
    { s with
      phaseReg := t.phaseReg
      acq := t.acq
      bp := t.bp
      idx := t.idx
      edge := t.edge
      man := t.man
      buf := t.buf
      trace := t.trace
      samplesRead := t.samplesRead }

namespace CallFrame

variable {s t u : State}

theorem busy (h : CallFrame s t) : t.busy = s.busy := (congrArg State.busy h :)
theorem op (h : CallFrame s t) : t.op = s.op := (congrArg State.op h :)
theorem ill (h : CallFrame s t) : t.ill = s.ill := (congrArg State.ill h :)
theorem rej (h : CallFrame s t) : t.rej = s.rej := (congrArg State.rej h :)
theorem cause (h : CallFrame s t) : t.cause = s.cause := (congrArg State.cause h :)
theorem result (h : CallFrame s t) : t.result = s.result := (congrArg State.result h :)
theorem args (h : CallFrame s t) : t.args = s.args := (congrArg State.args h :)
theorem cfg (h : CallFrame s t) : t.cfg = s.cfg := (congrArg State.cfg h :)
theorem params (h : CallFrame s t) : t.params = s.params := (congrArg State.params h :)
theorem postDue (h : CallFrame s t) : t.postDue = s.postDue := (congrArg State.postDue h :)

theorem trans (h₁ : CallFrame s t) (h₂ : CallFrame t u) : CallFrame s u :=
  Eq.trans h₂ (congrArg
    (fun x : State =>
      { x with
        phaseReg := u.phaseReg
        acq := u.acq
        bp := u.bp
        idx := u.idx
        edge := u.edge
        man := u.man
        buf := u.buf
        trace := u.trace
        samplesRead := u.samplesRead }) h₁)

end CallFrame

/-- One or more lines of an iteration lead from `s` to `t`: the frame is kept, neither the stored nor the computed
`PHASE` falls, and a trigger that fired stays fired. -/
structure LineStep (s t : State) : Prop where
  frame : CallFrame s t
  phaseReg_le : s.phaseReg.toNat ≤ t.phaseReg.toNat
  acqPhase_le : (acqPhase s.acq).toNat ≤ (acqPhase t.acq).toNat
  fired : s.acq.armed = false → t.acq.armed = false

theorem LineStep.trans {s t u : State} (h₁ : LineStep s t) (h₂ : LineStep t u) : LineStep s u where
  frame := h₁.frame.trans h₂.frame
  phaseReg_le := h₁.phaseReg_le.trans h₂.phaseReg_le
  acqPhase_le := h₁.acqPhase_le.trans h₂.acqPhase_le
  fired := fun h => h₂.fired (h₁.fired h)

/-- A line that leaves `ARMED` and the skip count alone does not lower `PHASE` when it does not lower the stored one. -/
theorem LineStep.of_frame {s t : State} (hf : CallFrame s t) (hp : s.phaseReg.toNat ≤ t.phaseReg.toNat)
    (ha : t.acq.armed = s.acq.armed) (hk : t.acq.skipLeft = s.acq.skipLeft) : LineStep s t where
  frame := hf
  phaseReg_le := hp
  acqPhase_le := by simp [acqPhase, ha, hk]
  fired := fun h => ha.trans h

theorem LineStep.refl (s : State) : LineStep s s := .of_frame rfl le_rfl rfl rfl

/-- Every state the flow answers with is reached from `s` by a step of lines, and a cause it raises is a cause. -/
def Flow.Keeps (s : State) : Flow → Prop
  | .pass t => LineStep s t
  | .discard t => LineStep s t
  | .terminate c t => c ≠ .none ∧ LineStep s t
  | .fault _ => True

/-- What a flow keeps from a later state it keeps from an earlier one. -/
theorem Flow.Keeps.after {s t : State} {f : Flow} (h : f.Keeps t) (hst : LineStep s t) : f.Keeps s := by
  cases f with
  | pass u => exact hst.trans h
  | discard u => exact hst.trans h
  | terminate c u => exact ⟨h.1, hst.trans h.2⟩
  | fault e => trivial

/-- Lines in sequence keep what each of them keeps. -/
theorem Flow.Keeps.andThen {s : State} {f : Flow} {k : State → Flow} (hf : f.Keeps s)
    (hk : ∀ t, (k t).Keeps t) : (f.andThen k).Keeps s := by
  cases f with
  | pass t => exact (hk t).after hf
  | discard t => exact hf
  | terminate c t => exact hf
  | fault e => trivial

/-! ### The store of LOG -/

theorem bpw_keeps (bit : Bool) (s : State) : (Flow.ofAccess (bpw bit s)).Keeps s := by
  by_cases h : s.bp.position.toNat / 8 < s.cap
  · rw [bpw_of_lt bit s h]; exact .of_frame rfl le_rfl rfl rfl
  · rw [bpw_of_ge bit s (Nat.le_of_not_lt h)]; trivial

theorem bpwAll_keeps (bits : List Bool) (s : State) : (Flow.ofAccess (bpwAll bits s)).Keeps s := by
  induction bits generalizing s with
  | nil => exact .refl s
  | cons bit bits ih =>
    have hbit := bpw_keeps bit s
    simp only [bpwAll]
    cases hb : bpw bit s with
    | error e => trivial
    | ok t => rw [hb] at hbit; exact (ih t).after hbit

theorem storeSample_keeps (v : Byte) (s : State) : (Flow.ofAccess (storeSample v s)).Keeps s := by
  unfold storeSample
  split
  · unfold storeByte memWrite
    split
    · trivial
    · rename_i t ht
      split at ht
      · cases ht; exact .of_frame rfl le_rfl rfl rfl
      · cases ht
  · have hall := bpwAll_keeps (topBits v s.lat.bps.toNat) s
    unfold storeBits
    cases hb : bpwAll (topBits v s.lat.bps.toNat) s with
    | error e => trivial
    | ok t => rw [hb] at hall; exact LineStep.trans hall (.of_frame rfl le_rfl rfl rfl)

theorem countBudget_keeps (s : State) : (countBudget s).Keeps s := by
  unfold countBudget
  simp only []
  split
  · exact ⟨by decide, .of_frame rfl le_rfl rfl rfl⟩
  · exact .of_frame rfl le_rfl rfl rfl

theorem logValue_keeps (v : Byte) (s : State) : (logValue v s).Keeps s :=
  (storeSample_keeps v s).andThen countBudget_keeps

/-! ### The lines of the generic engine -/

theorem decimate_keeps (x : Byte) (s : State) : (decimate x s).Keeps s := by
  rcases decimate_cases x s with ⟨-, -, h⟩ | ⟨v, n, h⟩
  · rw [h]; exact .of_frame rfl le_rfl rfl rfl
  · rw [h]; exact (logValue_keeps v _).after (.of_frame rfl le_rfl rfl rfl)

/-- SKIP moves `PHASE` from SKIPPING to LOGGING at most. -/
theorem skipSample_keeps (s : State) : (skipSample s).Keeps s := by
  rcases skipSample_cases s with ⟨hpos, h⟩ | ⟨-, h⟩
  · rw [h]
    refine ⟨rfl, le_rfl, ?_, id⟩
    cases ha : s.acq.armed with
    | true => simp [acqPhase, ha]
    | false =>
      simp only [acqPhase, ha, hpos, if_true, Bool.false_eq_true, if_false]
      split <;> decide
  · rw [h]; exact .refl s

/-- GATE moves `PHASE` out of WAIT_TRIGGER at most. -/
theorem gate_keeps (x : Byte) (s : State) : (gate x s).Keeps s := by
  rcases gate_cases x s with h | ⟨-, -, n, h | ⟨-, h⟩⟩
  · rw [h]
    refine ⟨rfl, le_rfl, ?_, fun _ => rfl⟩
    cases ha : s.acq.armed <;> simp [acqPhase, ha]
  · rw [h]; exact .of_frame rfl le_rfl rfl rfl
  · rw [h]; exact ⟨by decide, .of_frame rfl le_rfl rfl rfl⟩

theorem processSample_keeps (x : Byte) (s : State) : (processSample x s).Keeps s := by
  unfold processSample
  split
  · exact ⟨by decide, .refl s⟩
  · exact ((gate_keeps x s).andThen skipSample_keeps).andThen (decimate_keeps x)

theorem raceCheck_keeps (inp : Input) (s : State) : (raceCheck inp s).Keeps s := by
  rcases raceCheck_cases inp s with ⟨n, h⟩ | ⟨-, -, h⟩
  · rw [h]; exact .of_frame rfl le_rfl rfl rfl
  · rw [h]; exact ⟨by decide, .of_frame rfl le_rfl rfl rfl⟩

theorem kickAndProcess_keeps (inp : Input) (s : State) : (kickAndProcess inp s).Keeps s := by
  cases hr : inp.rxReady with
  | true =>
    rw [kickAndProcess_of_ready inp s hr]
    exact (processSample_keeps _ _).after (.of_frame rfl le_rfl rfl rfl)
  | false => rw [kickAndProcess_of_not_ready inp s hr]; exact .of_frame rfl le_rfl rfl rfl

theorem iterateAcquisition_keeps (inp : Input) (s : State) : (iterateAcquisition inp s).Keeps s := by
  unfold iterateAcquisition
  split
  · exact ⟨by decide, .refl s⟩
  · exact (raceCheck_keeps inp s).andThen (kickAndProcess_keeps inp)

/-! ### The lines of EDGE -/

/-- A byte write of a specialized engine writes one byte and moves `idx`, or faults outside the buffer. -/
theorem putByte_cases (v : Byte) (s : State) :
    putByte v s = .pass { s with buf := s.buf.write s.idx.toNat v, idx := s.idx + 1#32 } ∨
    putByte v s = .fault .outsideBuffer := by
  by_cases h : s.idx.toNat < s.cap
  · exact .inl (putByte_of_lt v s h)
  · exact .inr (by simp [putByte, memWrite, h])

/-- The one or two writes of EDGE's transition change the buffer and `idx` only (44_edge_capture.md R227). -/
theorem transition_cases (v x : Byte) (s : State) :
    (∃ m n, (putByte v s).andThen (putTransition x) = .pass { s with buf := m, idx := n }) ∨
    (putByte v s).andThen (putTransition x) = .fault .outsideBuffer := by
  rcases putByte_cases v s with h | h
  · rw [h, andThen_pass]
    unfold putTransition
    split
    · rcases putByte_cases x { s with buf := s.buf.write s.idx.toNat v, idx := s.idx + 1#32 } with h' | h'
      · exact .inl ⟨_, _, h'⟩
      · exact .inr h'
    · exact .inl ⟨_, _, rfl⟩
  · exact .inr (by rw [h, andThen_fault])

/-- A `PHASE` value of EDGE is the encoding of its state. -/
theorem phaseReg_of_edgePhase {b : BitVec 3} {p : EdgePhase} (h : edgePhase b = some p) : b = edgePhaseBits p := by
  revert b p
  decide

/-- A `PHASE` value of MFILL or MBITS is the encoding of its state. -/
theorem phaseReg_of_manPhase {b : BitVec 3} {p : ManPhase} (h : manPhase b = some p) : b = manPhaseBits p := by
  revert b p
  decide

theorem edgeSeekHigh_keeps (x : Byte) (s : State) (hp : s.phaseReg.toNat ≤ 1) : (edgeSeekHigh x s).Keeps s := by
  unfold edgeSeekHigh
  split
  · exact .of_frame rfl (hp.trans (by decide : 1 ≤ (edgePhaseBits .seekLow).toNat)) rfl rfl
  · exact .of_frame rfl hp rfl rfl

theorem edgeSeekLow_keeps (x : Byte) (s : State) (hp : s.phaseReg.toNat ≤ 2) : (edgeSeekLow x s).Keeps s := by
  unfold edgeSeekLow
  split
  · exact .of_frame rfl (hp.trans (by decide : 2 ≤ (edgePhaseBits .preCollect).toNat)) rfl rfl
  · exact .of_frame rfl le_rfl rfl rfl

theorem edgePreCollect_keeps (x : Byte) (s : State) (hp : s.phaseReg.toNat ≤ 3) : (edgePreCollect x s).Keeps s := by
  unfold edgePreCollect
  split
  · rcases transition_cases s.edge.lastSample x s with ⟨m, n, h⟩ | h
    · rw [h]; exact .of_frame rfl (hp.trans (by decide : 3 ≤ (edgePhaseBits .collecting).toNat)) rfl rfl
    · rw [h]; trivial
  · simp only []
    split <;> exact .of_frame rfl le_rfl rfl rfl

theorem edgeCollect_keeps (x : Byte) (s : State) : (edgeCollect x s).Keeps s := by
  unfold edgeCollect
  rcases putByte_cases x s with h | h
  · rw [h]; exact .of_frame rfl le_rfl rfl rfl
  · rw [h]; trivial

/-- Each rule of EDGE runs at its own `PHASE`, so it moves to the same or a higher one. -/
theorem edgeSample_keeps (x : Byte) (s : State) : (edgeSample x s).Keeps s := by
  unfold edgeSample
  split
  · rename_i h; exact edgeSeekHigh_keeps x s (phaseReg_of_edgePhase h ▸ by decide)
  · rename_i h; exact edgeSeekHigh_keeps x s (phaseReg_of_edgePhase h ▸ by decide)
  · rename_i h; exact edgeSeekLow_keeps x s (phaseReg_of_edgePhase h ▸ by decide)
  · rename_i h; exact edgePreCollect_keeps x s (phaseReg_of_edgePhase h ▸ by decide)
  · exact edgeCollect_keeps x s
  · trivial

theorem iterateEdge_keeps (inp : Input) (s : State) : (iterateEdge inp s).Keeps s := by
  unfold iterateEdge
  split
  · exact ⟨by decide, .refl s⟩
  split
  · exact ⟨by decide, .refl s⟩
  split
  · exact ⟨by decide, .refl s⟩
  simp only []
  split
  · exact (edgeSample_keeps _ _).after (.of_frame rfl le_rfl rfl rfl)
  · exact .of_frame rfl le_rfl rfl rfl

/-! ### The lines of MFILL and MBITS -/

theorem manSeekHigh_keeps (x : Byte) (s : State) (hp : s.phaseReg.toNat ≤ 0) : (manSeekHigh x s).Keeps s := by
  unfold manSeekHigh
  split
  · exact .of_frame rfl (hp.trans (by decide : 0 ≤ (manPhaseBits .seekLow).toNat)) rfl rfl
  · exact .of_frame rfl le_rfl rfl rfl

theorem manSeekLow_keeps (x : Byte) (s : State) (hp : s.phaseReg.toNat ≤ 1) : (manSeekLow x s).Keeps s := by
  unfold manSeekLow
  split
  · exact .of_frame rfl (hp.trans (by decide : 1 ≤ (manPhaseBits .data).toNat)) rfl rfl
  · exact .of_frame rfl le_rfl rfl rfl

theorem fillData_keeps (x : Byte) (s : State) : (fillData x s).Keeps s := by
  unfold fillData
  simp only []
  rcases putByte_cases (quantize 255#8 0#8 x s.man.hold) s with h | h
  · rw [h]; exact .of_frame rfl le_rfl rfl rfl
  · rw [h]; trivial

theorem bitsData_keeps (x : Byte) (s : State) : (bitsData x s).Keeps s := by
  unfold bitsData
  simp only []
  split
  · rcases putByte_cases (flagBit 8 (updateBit x s.man).curr)
        { s with man := { updateBit x s.man with period := (updateBit x s.man).period - 1#32 } } with h | h
    · rw [h]; exact .of_frame rfl le_rfl rfl rfl
    · rw [h]; trivial
  · exact .of_frame rfl le_rfl rfl rfl

theorem manSample_keeps {data : Byte → State → Flow} (hd : ∀ x s, (data x s).Keeps s) (x : Byte) (s : State) :
    (manSample data x s).Keeps s := by
  unfold manSample
  split
  · rename_i h; exact manSeekHigh_keeps x s (phaseReg_of_manPhase h ▸ by decide)
  · rename_i h; exact manSeekLow_keeps x s (phaseReg_of_manPhase h ▸ by decide)
  · exact hd x s
  · trivial

theorem iterateManchester_keeps {data : Byte → State → Flow} (hd : ∀ x s, (data x s).Keeps s) (inp : Input)
    (s : State) : (iterateManchester data inp s).Keeps s := by
  unfold iterateManchester
  split
  · exact ⟨by decide, .refl s⟩
  split
  · exact ⟨by decide, .refl s⟩
  split
  · exact ⟨by decide, .refl s⟩
  simp only []
  split
  · exact (manSample_keeps hd _ _).after (.of_frame rfl le_rfl rfl rfl)
  · exact .of_frame rfl le_rfl rfl rfl

/-! ### A whole iteration -/

/-- The lines of one iteration of the engine of a looping command. -/
def iterate : Instr → Input → State → Flow
  | .acq, inp, s => iterateAcquisition inp s
  | .readlf, inp, s => iterateAcquisition inp s
  | .reader, inp, s => iterateAcquisition inp s
  | .sniff, inp, s => iterateAcquisition inp s
  | .edge, inp, s => iterateEdge inp s
  | .mfill, inp, s => iterateManchester fillData inp s
  | .mbits, inp, s => iterateManchester bitsData inp s
  | .cfgmerge, _, _ => .fault .noEngine
  | .cfgrd, _, _ => .fault .noEngine
  | .arm, _, _ => .fault .noEngine

/-- An engine finishes what its lines answer; a command that is not looping has none. -/
theorem runEngine_eq_finish (i : Instr) (inp : Input) (s : State) : runEngine i inp s = (iterate i inp s).finish := by
  cases i <;> rfl

theorem iterate_keeps (i : Instr) (inp : Input) (s : State) : (iterate i inp s).Keeps s := by
  cases i with
  | acq => exact iterateAcquisition_keeps inp s
  | readlf => exact iterateAcquisition_keeps inp s
  | reader => exact iterateAcquisition_keeps inp s
  | sniff => exact iterateAcquisition_keeps inp s
  | edge => exact iterateEdge_keeps inp s
  | mfill => exact iterateManchester_keeps fillData_keeps inp s
  | mbits => exact iterateManchester_keeps bitsData_keeps inp s
  | cfgmerge => trivial
  | cfgrd => trivial
  | arm => trivial

/-- What a poll iteration of a call can answer: the state its lines lead to, or the terminating step of it with a cause.
The lines are those of the command in `OP`. -/
theorem pollIteration_cases {w : BitVec 12} {s t : State} (hb : s.busy = true) (h : pollIteration w s = .next t) :
    ∃ i u, s.op = i.opcode ∧ LineStep s u ∧
      ((t = u ∧ (iterate i (decodeInput w) s = .pass u ∨ iterate i (decodeInput w) s = .discard u)) ∨
       ∃ c, c ≠ .none ∧ t = terminateCall c u ∧ iterate i (decodeInput w) s = .terminate c u) := by
  cases hi : decodeOpcode s.op with
  | none => simp [pollIteration, hb, hi] at h
  | some i =>
    have hop := opcode_of_decodeOpcode s.op i hi
    rw [pollIteration_of_op w s i hb hop, runEngine_eq_finish] at h
    have hk := iterate_keeps i (decodeInput w) s
    cases hf : iterate i (decodeInput w) s with
    | pass u => rw [hf] at h hk; cases h; exact ⟨i, _, hop, hk, .inl ⟨rfl, .inl hf⟩⟩
    | discard u => rw [hf] at h hk; cases h; exact ⟨i, _, hop, hk, .inl ⟨rfl, .inr hf⟩⟩
    | terminate c u => rw [hf] at h hk; cases h; exact ⟨i, u, hop, hk.2, .inr ⟨c, hk.1, rfl, hf⟩⟩
    | fault e => rw [hf] at h; cases h

end Sys2Proof.Machine
end

section
/-! What one step can do, once: a host access, an accepted, rejected or illegal command word, a poll iteration of a
call, or the offset remover (00_scope.md R15), with the facts about register numbers, command words and acceptances it
rests on. -/

namespace Sys2Proof.Machine

/-! ### Register numbers -/

@[simp] theorem decodeReg_number (r : HostReg) : decodeReg r.number = some r := by
  cases r with
  | arg i =>
    simp [HostReg.number, decodeReg, show 3 + i.val ≠ 1 by omega, show 3 + i.val ≠ 2 by omega,
      show 3 + i.val ≤ 9 by omega]
  | _ => rfl

/-- A number names at most one register: the one whose number it is (10_state.md R46). -/
theorem number_of_decodeReg {n : Nat} {r : HostReg} (h : decodeReg n = some r) : n = r.number := by
  unfold decodeReg at h
  split_ifs at h with h0 h1 h2 h3 h10 <;> cases h <;> simp only [HostReg.number] <;> omega

theorem decodeReg_of_gt {n : Nat} (h : 10 < n) : decodeReg n = none := by
  rw [decodeReg, if_neg (by omega), if_neg (by omega), if_neg (by omega), dif_neg (by omega), if_neg (by omega)]

theorem hostRead_of_decodeReg {n : Nat} {r : HostReg} (h : decodeReg n = some r) (s : State) :
    hostRead n s = { s with readData := readReg r s } := by
  simp [hostRead, h]

/-- A host read changes nothing but the value it returned. -/
theorem hostRead_eq (n : Nat) (s : State) : hostRead n s = { s with readData := (hostRead n s).readData } := by
  unfold hostRead
  split <;> rfl

/-- `ARG` registers are seven separate registers (10_state.md R50). -/
theorem Args.get_set (x : Args) (i k : Fin 7) (v : Word) : (x.set i v).get k = if k = i then v else x.get k := by
  fin_cases i <;> fin_cases k <;> rfl

/-- A number whose register is no `ARG` register is none of 3 to 9. -/
theorem ne_arg_of_decodeReg {n : Nat} {o : Option HostReg} (h : decodeReg n = o) (ho : ∀ i, o ≠ some (.arg i))
    (i : Fin 7) : n ≠ 3 + i.val := by
  rintro rfl
  exact ho i (h.symm.trans (decodeReg_number (.arg i)))

/-- A write to a register other than `CMD` goes to the `ARG` register of that number, if there is one. -/
theorem hostWrite_of_ne_zero (n : Nat) (v : Word) (s : State) (hn : n ≠ 0) :
    (∃ i : Fin 7, n = 3 + i.val ∧ hostWrite n v s = .next { s with args := s.args.set i v }) ∨
    ((∀ i : Fin 7, n ≠ 3 + i.val) ∧ hostWrite n v s = .next s) := by
  unfold hostWrite
  split
  · rename_i h; exact absurd (number_of_decodeReg h) hn
  · rename_i h; exact .inr ⟨ne_arg_of_decodeReg h nofun, rfl⟩
  · rename_i h; exact .inr ⟨ne_arg_of_decodeReg h nofun, rfl⟩
  · rename_i i h; exact .inl ⟨i, number_of_decodeReg h, rfl⟩
  · rename_i h; exact .inr ⟨ne_arg_of_decodeReg h nofun, rfl⟩
  · rename_i h; exact .inr ⟨ne_arg_of_decodeReg h nofun, rfl⟩

/-! ### Command words -/

/-- A word is its `zero` field above its `opcode` field (30_encoding.md R103). -/
theorem zeroField_append_opcodeField (w : Word) : zeroField w ++ opcodeField w = w := by
  unfold zeroField opcodeField
  ext k hk
  simp only [BitVec.getElem_append, BitVec.getElem_extractLsb']
  split
  · rw [Nat.zero_add, BitVec.getLsbD_eq_getElem hk]
  · rw [show 8 + (k - 8) = k by omega, BitVec.getLsbD_eq_getElem hk]

/-- No word but its own decodes to a command. -/
theorem encode_of_decode {w : Word} {i : Instr} (h : decode w = .ok i) : w = encode i := by
  unfold decode at h
  split at h
  · rename_i hz
    split at h
    · rename_i j hj
      cases h
      rw [← zeroField_append_opcodeField w, hz, opcode_of_decodeOpcode _ _ hj, encode]
    · cases h
  · cases h

/-! ### Acceptances -/

/-- The report of CFGMERGE adds to the trace and changes nothing else. -/
theorem reportConfig_eq (s : State) : reportConfig s = { s with trace := (reportConfig s).trace } := by
  unfold reportConfig
  split <;> rfl

/-- What no acceptance changes. -/
theorem acceptance_frame (i : Instr) (s : State) :
    acceptance i s =
      { acceptance i s with
        op := s.op
        ill := s.ill
        rej := s.rej
        buf := s.buf
        params := s.params
        pending := s.pending
        freeIndex := s.freeIndex
        readData := s.readData
        samplesRead := s.samplesRead } := by
  cases i with
  | cfgmerge => simp only [acceptance, acceptCfgmerge]; rw [reportConfig_eq]; rfl
  | _ => rfl

@[simp] theorem acceptance_op (i : Instr) (s : State) : (acceptance i s).op = s.op :=
  (congrArg State.op (acceptance_frame i s) :)
@[simp] theorem acceptance_ill (i : Instr) (s : State) : (acceptance i s).ill = s.ill :=
  (congrArg State.ill (acceptance_frame i s) :)
@[simp] theorem acceptance_rej (i : Instr) (s : State) : (acceptance i s).rej = s.rej :=
  (congrArg State.rej (acceptance_frame i s) :)
@[simp] theorem acceptance_buf (i : Instr) (s : State) : (acceptance i s).buf = s.buf :=
  (congrArg State.buf (acceptance_frame i s) :)
@[simp] theorem acceptance_params (i : Instr) (s : State) : (acceptance i s).params = s.params :=
  (congrArg State.params (acceptance_frame i s) :)

/-- An instantaneous command completes: `PHASE` 0, `CAUSE` DONE, and `BUSY` as it was (30_encoding.md R101). -/
theorem acceptance_of_instant {i : Instr} (h : i.looping = false) (s : State) :
    (acceptance i s).busy = s.busy ∧ (acceptance i s).cause = .done ∧ (acceptance i s).phaseReg = 0#3 ∧
      (acceptance i s).postDue = s.postDue := by
  cases i with
  | cfgmerge => simp only [acceptance, acceptCfgmerge]; rw [reportConfig_eq]; exact ⟨rfl, rfl, rfl, rfl⟩
  | cfgrd => exact ⟨rfl, rfl, rfl, rfl⟩
  | arm => exact ⟨rfl, rfl, rfl, rfl⟩
  | _ => cases h

/-- A looping command starts a call: `BUSY` 1, `CAUSE` 0, and `RESULT` as it was (30_encoding.md R101). -/
theorem acceptance_of_looping {i : Instr} (h : i.looping = true) (s : State) :
    (acceptance i s).busy = true ∧ (acceptance i s).cause = .none ∧ (acceptance i s).postDue = none ∧
      (acceptance i s).result = s.result := by
  cases i with
  | cfgmerge => cases h
  | cfgrd => cases h
  | arm => cases h
  | _ => exact ⟨rfl, rfl, rfl, rfl⟩

/-- Only CFGMERGE writes the configuration. -/
theorem acceptance_cfg {i : Instr} (h : i ≠ .cfgmerge) (s : State) : (acceptance i s).cfg = s.cfg := by
  cases i with
  | cfgmerge => exact absurd rfl h
  | _ => rfl

/-- Of the commands, only CFGRD writes `ARG`. -/
theorem acceptance_args {i : Instr} (h : i ≠ .cfgrd) (s : State) : (acceptance i s).args = s.args := by
  cases i with
  | cfgmerge => simp only [acceptance, acceptCfgmerge]; rw [reportConfig_eq]; rfl
  | cfgrd => exact absurd rfl h
  | _ => rfl

/-! ### One step -/

/-- The environment's next move is a poll iteration, or it gives none and the input is free (log 5). -/
def PollIsNext (s : State) : Prop := s.pending = [] ∨ ∃ (w : BitVec 12) (rest : List Move), s.pending = .poll w :: rest

/-- The ways in which one step leads from `s` to `t`. -/
inductive StepCase (s t : State) : Prop
  /-- A host read, a write no register takes, or a poll iteration while idle. -/
  | unchanged (p : List Move) (d : Word) (ht : t = { s with pending := p, readData := d })
  /-- A host write to an `ARG` register. -/
  | argument (n : Nat) (v : Word) (rest : List Move) (x : Args) (hn : 3 ≤ n ∧ n ≤ 9)
      (hp : s.pending = .write n v :: rest) (ht : t = { s with pending := rest, args := x })
  /-- An illegal word written to `CMD`. -/
  | illegal (w : Word) (rest : List Move) (e : DecodeError) (hp : s.pending = .write 0 w :: rest)
      (hd : decode w = .error e) (ht : t = { s with pending := rest, ill := true })
  /-- A command written to `CMD` during a call. -/
  | rejected (w : Word) (rest : List Move) (i : Instr) (hb : s.busy = true) (hp : s.pending = .write 0 w :: rest)
      (hd : decode w = .ok i) (ht : t = { s with pending := rest, rej := true })
  /-- A command written to `CMD` of an idle block. -/
  | accepted (w : Word) (rest : List Move) (i : Instr) (hb : s.busy = false) (hp : s.pending = .write 0 w :: rest)
      (hd : decode w = .ok i) (ht : t = acceptance i { s with pending := rest, op := i.opcode })
  /-- A poll iteration of a call. -/
  | polled (w : BitVec 12) (p : List Move) (n : Nat) (hb : s.busy = true) (hp : PollIsNext s)
      (ht : pollIteration w { s with pending := p, freeIndex := n } = .next t)
  /-- The offset remover. -/
  | removed (rest : List Move) (hp : s.pending = .removeOffset :: rest)
      (ht : t = removeOffset { s with pending := rest })

/-- A word written to `CMD`: illegal, rejected or accepted (30_encoding.md R101). -/
theorem stepCase_of_writeCommand {s t : State} {w : Word} {rest : List Move} (hp : s.pending = .write 0 w :: rest)
    (h : writeCommand w { s with pending := rest } = .next t) : StepCase s t := by
  unfold writeCommand at h
  split at h
  · rename_i i hd
    rw [exec_eq_accept] at h
    cases hb : s.busy with
    | true =>
      rw [acceptWhenIdle_busy i _ { s with pending := rest } hb] at h; cases h
      exact .rejected w rest i hb hp hd rfl
    | false =>
      rw [acceptWhenIdle_idle i _ { s with pending := rest } hb] at h; cases h
      exact .accepted w rest i hb hp hd rfl
  · rename_i e hd
    cases h
    exact .illegal w rest e hp hd rfl

theorem stepCase_of_hostWrite {s t : State} {n : Nat} {v : Word} {rest : List Move}
    (hp : s.pending = .write n v :: rest) (h : hostWrite n v { s with pending := rest } = .next t) : StepCase s t := by
  rcases eq_or_ne n 0 with rfl | hn
  · exact stepCase_of_writeCommand hp h
  · rcases hostWrite_of_ne_zero n v { s with pending := rest } hn with ⟨i, hi, hw⟩ | ⟨-, hw⟩
    · rw [hw] at h; cases h; exact .argument n v rest _ (by omega) hp rfl
    · rw [hw] at h; cases h; exact .unchanged rest s.readData rfl

/-- Every step that goes through is of one of these kinds. -/
theorem step_cases {s t : State} (h : step s = .next t) : StepCase s t := by
  cases hp : s.pending with
  | nil =>
    rw [step_of_pending_nil s hp] at h
    cases hb : s.busy with
    | true => rw [freePoll_of_busy s hb] at h; exact .polled _ s.pending _ hb (.inl hp) h
    | false => rw [freePoll_of_idle s hb] at h; cases h; exact .unchanged s.pending s.readData rfl
  | cons m rest =>
    rw [step_of_pending_cons s m rest hp] at h
    cases m with
    | read n => cases h; rw [hostRead_eq]; exact .unchanged rest _ rfl
    | write n v => exact stepCase_of_hostWrite hp h
    | readByte a =>
      simp only [perform, hostReadByte] at h
      split at h
      · cases h; exact .unchanged rest _ rfl
      · cases h
    | poll w =>
      rw [perform_poll] at h
      cases hb : s.busy with
      | true => exact .polled w rest s.freeIndex hb (.inr ⟨w, rest, hp⟩) h
      | false =>
        rw [pollIteration_of_idle w { s with pending := rest } hb] at h; cases h
        exact .unchanged rest s.readData rfl
    | removeOffset => cases h; exact .removed rest hp rfl

/-- The offset remover changes the buffer and the region due, nothing else. -/
theorem removeOffset_eq (s : State) :
    removeOffset s = { s with buf := (removeOffset s).buf, postDue := none } := by
  unfold removeOffset
  split
  · rename_i h; rw [← h]
  · rfl
end Sys2Proof.Machine
end

section
/-! The registers the host sees and what may change them: the obligations about host accesses, `STATUS`, reset,
acceptance and the writers of each register (10_state.md R21, R22, R45 to R50, R58, R64). -/

namespace Sys2Proof.Machine

/-! ### `PHASE` over an iteration -/

@[simp] theorem phase_terminateCall (c : Cause) (s : State) : phase (terminateCall c s) = phase s := by
  unfold phase
  rw [opIs_congr Instr.acqFamily (terminateCall_op c s), terminateCall_acq, terminateCall_phaseReg]

/-- No line lowers `PHASE`, whichever of the two registers it is read from. -/
theorem LineStep.phase_le {s t : State} (h : LineStep s t) : (phase s).toNat ≤ (phase t).toNat := by
  unfold phase
  rw [opIs_congr Instr.acqFamily h.frame.op]
  split
  · exact h.acqPhase_le
  · exact h.phaseReg_le

/-! ### The fields of `STATUS` -/

@[simp] theorem flagBit_one_getLsbD_zero (b : Bool) : (flagBit 1 b).getLsbD 0 = b := by cases b <;> rfl

/-- The lowest bit of a bit string over a flag is the flag. -/
theorem getLsbD_zero_append_flagBit {n : Nat} (hi : BitVec n) (b : Bool) : (hi ++ flagBit 1 b).getLsbD 0 = b := by
  rw [BitVec.getLsbD_append, if_pos Nat.one_pos, flagBit_one_getLsbD_zero]

/-- The bits of a bit string over a single bit are those of the string, one higher. -/
theorem getLsbD_succ_append {n : Nat} (hi : BitVec n) (b : BitVec 1) (k : Nat) :
    (hi ++ b).getLsbD (k + 1) = hi.getLsbD k := by
  rw [BitVec.getLsbD_append, if_neg (by omega), Nat.add_sub_cancel]

/-- Fields laid out as in `STATUS`, each a bit string above the next, read back (10_state.md R48). -/
theorem fields_of_status (z : BitVec 13) (p : BitVec 3) (o : BitVec 8) (c : BitVec 4) (rej ill busy : Bool) :
    let w := z ++ p ++ o ++ c ++ 0#1 ++ flagBit 1 rej ++ flagBit 1 ill ++ flagBit 1 busy
    w.getLsbD 0 = busy ∧ w.getLsbD 1 = ill ∧ w.getLsbD 2 = rej ∧ w.getLsbD 3 = false ∧
    w.extractLsb' 4 4 = c ∧ w.extractLsb' 8 8 = o ∧ w.extractLsb' 16 3 = p ∧ w.extractLsb' 19 13 = z := by
  refine ⟨getLsbD_zero_append_flagBit _ _, ?ill, ?rej, ?unused, ?cause, ?op, ?phase, ?zero⟩
  case ill => rw [getLsbD_succ_append, getLsbD_zero_append_flagBit]
  case rej => rw [getLsbD_succ_append, getLsbD_succ_append, getLsbD_zero_append_flagBit]
  case unused =>
    rw [getLsbD_succ_append, getLsbD_succ_append, getLsbD_succ_append, BitVec.getLsbD_append, if_pos Nat.one_pos]
    rfl
  all_goals simp (disch := decide) only [BitVec.extractLsb'_append_eq_of_le, -Nat.reduceAdd]
  case cause => exact BitVec.extractLsb'_append_eq_right
  case op => exact BitVec.extractLsb'_append_eq_right
  case phase => exact BitVec.extractLsb'_append_eq_right
  case zero => exact BitVec.extractLsb'_eq_self

/-- The ACQ family by its opcodes (30_encoding.md R104). -/
theorem opIs_acqFamily_iff (s : State) :
    opIs Instr.acqFamily s = true ↔ s.op = 0x10#8 ∨ s.op = 0x11#8 ∨ s.op = 0x12#8 ∨ s.op = 0x13#8 := by
  unfold opIs
  generalize s.op = o
  revert o
  decide

/-! ### The parameters of the reset state -/

theorem params_wf_iff (p : Config.Params) : p.wf = true ↔
    19 ≤ p.div125k.toNat ∧ 19 ≤ p.divStd.toNat ∧ 19 ≤ p.divHigh.toNat ∧ 1 ≤ p.racePeriod.toNat := by
  simp only [Config.Params.wf, Bool.and_eq_true, decide_eq_true_eq, and_assoc]

/-- The OPEN parameters are inside the constraints of 00_scope.md R8. -/
theorem params_wf : Config.params.wf = true := by
  have h1 := Config.div125kAbove19.isLt
  have h2 := Config.divStdAbove19.isLt
  have h3 := Config.divHighAbove19.isLt
  have h4 := Config.racePeriodAbove1.isLt
  simp only [params_wf_iff, Config.params, BitVec.toNat_ofNat]
  omega

end Sys2Proof.Machine

open Sys2Proof Sys2Proof.Machine

/-- Settles O46: no line of an iteration lowers `PHASE`, and the terminating step does not touch it. -/
theorem phaseNeverFallsWithinACall : Obligations.PhaseNeverFallsWithinACall := by
  intro s t w hb h
  obtain ⟨-, u, -, hu, ⟨rfl, -⟩ | ⟨c, -, rfl, -⟩⟩ := pollIteration_cases hb h
  · exact ⟨hu.phase_le, hu.fired⟩
  · rw [phase_terminateCall, terminateCall_acq]
    exact ⟨hu.phase_le, hu.fired⟩

/-- Settles O10, field by field; the ACQ family is recognised by its four opcodes. -/
theorem statusWordFields : Obligations.StatusWordFields := by
  intro s
  obtain ⟨h0, h1, h2, h3, hc, ho, hp, hz⟩ := fields_of_status 0#13 (phase s) s.op (causeCode s.cause) s.rej s.ill s.busy
  refine ⟨h0, h1, h2, h3, hc.trans ?_, ho, hp.trans ?_, hz⟩
  · cases s.cause <;> rfl
  · simp only [phase, opIs_acqFamily_iff, acqPhase]

/-- Settles O51, by the kinds of a step: an acceptance starts a call, a terminating step ends one, and `RESULT` is
written by the two ways a command completes. -/
theorem onlyCommandsStartAndPollsEndCalls : Obligations.OnlyCommandsStartAndPollsEndCalls := by
  intro s t h
  cases step_cases h with
  | unchanged p d ht => subst ht; simp +contextual
  | argument n v rest x hn hp ht => subst ht; simp +contextual
  | illegal w rest e hp hd ht => subst ht; simp +contextual
  | rejected w rest i hb hp hd ht => subst ht; simp +contextual
  | removed rest hp ht => rw [ht, removeOffset_eq]; simp +contextual
  | accepted w rest i hb hp hd ht =>
    subst ht
    cases hi : i.looping with
    | true =>
      obtain ⟨-, -, -, hres⟩ := acceptance_of_looping hi { s with pending := rest, op := i.opcode }
      exact ⟨fun _ _ => ⟨w, rest, i, hp, hd, hi⟩, fun h => by simp [hb] at h, fun h => absurd hres h⟩
    | false =>
      obtain ⟨hbusy, hcause, -, -⟩ := acceptance_of_instant hi { s with pending := rest, op := i.opcode }
      refine ⟨fun _ h => ?_, fun h => by simp [hb] at h, fun _ => ⟨hbusy.trans hb, by simp [hcause], ?_⟩⟩
      · rw [hbusy] at h; simp [hb] at h
      · exact .inl ⟨hb, w, rest, i, hp, hd, hi⟩
  | polled w p n hb hp ht =>
    obtain ⟨-, u, -, hu, ⟨rfl, -⟩ | ⟨c, hc, rfl, -⟩⟩ :=
      pollIteration_cases (s := { s with pending := p, freeIndex := n }) hb ht
    · have hbusy : t.busy = true := hu.frame.busy.trans hb
      exact ⟨fun h => by simp [hb] at h, fun _ h => by simp [hbusy] at h, fun h => absurd hu.frame.result h⟩
    · exact ⟨fun h => by simp [hb] at h, fun _ _ => ⟨by simpa using hc, hp⟩,
        fun _ => ⟨by simp, by simpa using hc, .inr ⟨hb, hp⟩⟩⟩

/-- Settles O52, by the kinds of a step: each register is named in the one kind that may write it. -/
theorem onlyTheNamedWritersChangeRegisters : Obligations.OnlyTheNamedWritersChangeRegisters := by
  intro s t h
  cases step_cases h with
  | unchanged p d ht => subst ht; simp +contextual
  | argument n v rest x hn hp ht => subst ht; simp +contextual [hp, hn]
  | illegal w rest e hp hd ht => subst ht; simp +contextual [hp, hd]
  | rejected w rest i hb hp hd ht => subst ht; simp +contextual [hp, hd, hb]
  | removed rest hp ht => rw [ht, removeOffset_eq]; simp +contextual
  | accepted w rest i hb hp hd ht =>
    subst ht
    have hw := encode_of_decode hd
    refine ⟨fun h => ?cfg, fun h => ?args, by simp, by simp, by simp +contextual, by simp +contextual, by simp⟩
    case cfg =>
      have hi : i = .cfgmerge := by_contra fun hne => h (acceptance_cfg hne _)
      exact ⟨hb, rest, by rw [hp, hw, hi]; rfl⟩
    case args =>
      have hi : i = .cfgrd := by_contra fun hne => h (acceptance_args hne _)
      exact .inr ⟨hb, rest, by rw [hp, hw, hi]; rfl⟩
  | polled w p n hb hp ht =>
    obtain ⟨-, u, -, hu, ⟨rfl, -⟩ | ⟨c, -, rfl, -⟩⟩ :=
      pollIteration_cases (s := { s with pending := p, freeIndex := n }) hb ht
    · simp +contextual [hu.frame.cfg, hu.frame.args, hu.frame.ill, hu.frame.rej, hu.frame.params]
    · simp +contextual [hu.frame.cfg, hu.frame.args, hu.frame.ill, hu.frame.rej, hu.frame.params]

/-- Settles O9, register by register. -/
theorem hostReadReturnsTheRegister : Obligations.HostReadReturnsTheRegister := by
  intro s n rest hp
  have hval : ∀ r : HostReg, n = r.number →
      (hostRead n { s with pending := rest }).readData = readReg r { s with pending := rest } := by
    rintro r rfl
    rw [hostRead_of_decodeReg (decodeReg_number r)]
  refine ⟨(hostRead n { s with pending := rest }).readData, ?_, hval .cmd, hval .status, hval .result,
    fun k => hval (.arg k), fun h => ?capr, fun h => ?none⟩
  · rw [step_of_pending_cons s _ rest hp, perform, hostRead_eq]
  case capr =>
    rw [hval .capr h, readReg, BitVec.toNat_setWidth_of_le (by decide)]
    rfl
  case none => simp [hostRead, decodeReg_of_gt h]

/-- Settles O11: a number other than 0 names an `ARG` register or nothing that takes a write. -/
theorem hostWriteReachesOnlyArg : Obligations.HostWriteReachesOnlyArg := by
  intro s n v rest hp hn
  rw [step_of_pending_cons s _ rest hp, perform]
  rcases hostWrite_of_ne_zero n v { s with pending := rest } hn with ⟨i, hi, hw⟩ | ⟨hne, hw⟩
  · refine ⟨s.args.set i v, hw, fun k => ?_⟩
    have hk : k = i ↔ n = 3 + k.val := by rw [hi, Fin.ext_iff]; omega
    simp only [Args.get_set, hk]
  · exact ⟨s.args, hw, fun k => (if_neg (hne k)).symm⟩

/-- Settles O14, by evaluation of the reset state. -/
theorem resetStateAsStated : Obligations.ResetStateAsStated :=
  ⟨rfl, rfl, rfl, rfl, rfl, rfl, rfl, by decide, rfl⟩

/-- Settles O43: the block is idle and its buffer empty, so only the configuration and the parameters have to be looked
at. -/
theorem resetIsLegal : Obligations.ResetIsLegal where
  sequencer := ⟨.inl rfl, nofun, nofun, nofun⟩
  phase := ⟨nofun, nofun, fun _ => rfl⟩
  buffer := ⟨rfl, rfl, nofun⟩
  params := params_wf
  config :=
    { decimation := by decide
      bits_pos := by decide
      bits_le := by decide
      divisor := ((params_wf_iff _).1 params_wf).1
      threshold := by decide
      skip := by decide }
  acq := fun h => nomatch h.1
  edge := fun h => nomatch h.1
  man := fun h => nomatch h.1

/-- Settles O53: every looping acceptance writes all working registers of its engine, and reads none. -/
theorem acceptanceForgetsEarlierCalls : Obligations.AcceptanceForgetsEarlierCalls := by
  intro s hb
  refine ⟨fun i a b hi => ?acq, fun n e p l => ?edge, fun i n m p l hi => ?man⟩
  case acq =>
    rw [exec_of_idle i s hb, exec_of_idle i { s with acq := a, bp := b } hb]
    rcases hi with rfl | rfl | rfl | rfl <;> rfl
  case edge =>
    rw [exec_of_idle .edge s hb,
      exec_of_idle .edge { s with idx := n, edge := e, phaseReg := p, lat := { s.lat with limit := l } } hb]
    rfl
  case man =>
    rw [exec_of_idle i s hb,
      exec_of_idle i { s with idx := n, man := m, phaseReg := p, lat := { s.lat with limit := l } } hb]
    rcases hi with rfl | rfl <;> rfl

end

section
/-! The generic engine keeps its invariant: each line of 42_acquire.md R162 from a legal state of the ACQ family leads
to a legal one, or ends the call with no more accepted samples than the buffer holds (10_state.md R23 to R32, 42_acquire.md
R173, R179, R182). -/

namespace Sys2Proof.Machine

/-! ### The buffer and the counters -/

/-- The buffer is in canonical form and inside its capacity. -/
structure BufferOk (m : Memory) (cap : Nat) : Prop where
  wf : m.wf = true
  within : m.within cap = true

theorem toNat_pos_of_ne_zero {w : Word} (h : w ≠ 0#32) : 0 < w.toNat :=
  Nat.pos_of_ne_zero fun h0 => h (BitVec.eq_of_toNat_eq (by simpa using h0))

/-- A counter below some register does not wrap when it counts. -/
theorem toNat_succ_of_lt {n m : Word} (h : n.toNat < m.toNat) : (n + 1#32).toNat = n.toNat + 1 := by
  have := m.isLt
  rw [BitVec.toNat_add]
  exact Nat.mod_eq_of_lt (by simp; omega)

theorem toNat_pred_of_ne_zero {n : Word} (h : n ≠ 0#32) : (n - 1#32).toNat = n.toNat - 1 := by
  have := toNat_pos_of_ne_zero h
  exact BitVec.toNat_sub_of_le (by simp [BitVec.le_def]; omega)

/-- A counter that counts from below a register to another value than the register's stays below it. -/
theorem succ_lt_of_ne {n m : Word} (h : n.toNat < m.toNat) (hne : n + 1#32 ≠ m) : (n + 1#32).toNat < m.toNat := by
  have hs := toNat_succ_of_lt h
  have : (n + 1#32).toNat ≠ m.toNat := fun he => hne (BitVec.eq_of_toNat_eq he)
  omega

/-! ### The invariant under the updates of the lines -/

/-- The invariant reads the latches, the working registers of the engine and the parameters only. -/
theorem AcqInv.congr {s t : State} (h : AcqInv s) (hlat : t.lat = s.lat) (hacq : t.acq = s.acq) (hbp : t.bp = s.bp)
    (hpar : t.params = s.params) : AcqInv t := by
  have hcap : t.cap = s.cap := by simp only [State.cap, hpar]
  cases h
  constructor <;> simp only [hlat, hacq, hbp, hpar, hcap] <;> assumption

theorem AcqInv.with_raceCnt {s : State} (h : AcqInv s) {n : Word}
    (hn : s.acq.armed = true → n.toNat < s.params.racePeriod.toNat) :
    AcqInv { s with acq := { s.acq with raceCnt := n } } :=
  { h with armed_race := hn }

theorem AcqInv.with_cancelCnt {s : State} (h : AcqInv s) {n : Word}
    (hn : s.lat.cancel ≠ 0#32 → n.toNat < s.lat.cancel.toNat) :
    AcqInv { s with acq := { s.acq with cancelCnt := n } } :=
  { h with cancel := hn }

theorem AcqInv.fire {s : State} (h : AcqInv s) : AcqInv { s with acq := { s.acq with armed := false } } :=
  { h with
    armed_thr := nofun
    armed_race := nofun
    waiting := fun hw => h.waiting (.inr (hw.resolve_left nofun)) }

/-- Counting down the samples to skip keeps the count non-negative, and nothing has been accepted while it runs. -/
theorem AcqInv.skip {s : State} (h : AcqInv s) (hpos : 0 < s.acq.skipLeft.toInt) :
    AcqInv { s with acq := { s.acq with skipLeft := s.acq.skipLeft - 1#32 } } :=
  { h with
    skip_nonneg := by
      have hlt := BitVec.toInt_lt (x := s.acq.skipLeft)
      rw [BitVec.toInt_sub, Int.bmod_eq_of_le] <;> simp <;> omega
    waiting := fun _ => h.waiting (.inr hpos) }

/-- The trigger fired and the samples to skip are used up: PHASE is LOGGING (10_state.md R22). -/
theorem not_waiting {s : State} (harm : s.acq.armed = false) (hskip : s.acq.skipLeft.toInt ≤ 0) :
    ¬(s.acq.armed = true ∨ 0 < s.acq.skipLeft.toInt) := by
  simp [harm, hskip]

/-- A sample counted into an open group. -/
theorem AcqInv.count {s : State} (h : AcqInv s) (x : Byte) (harm : s.acq.armed = false)
    (hskip : s.acq.skipLeft.toInt ≤ 0) (hn : (s.acq.decCounter + 1#32).toNat < s.lat.dec.toNat) :
    AcqInv { s with
      acq := { s.acq with runningSum := s.acq.runningSum + x.setWidth 40, decCounter := s.acq.decCounter + 1#32 } } :=
  { h with
    group := hn
    sum := by
      have hx := x.isLt
      have hs := h.sum
      have hc := toNat_succ_of_lt h.group
      have hb := (s.acq.decCounter + 1#32).isLt
      have hw : (x.setWidth 40).toNat = x.toNat := BitVec.toNat_setWidth_of_le (by decide)
      simp only [BitVec.toNat_add, hw]
      exact (Nat.mod_le _ _).trans (by rw [← BitVec.toNat_add, hc]; omega)
    waiting := fun hw => absurd hw (not_waiting harm hskip) }

/-- A closed group: the accumulator and the counter are cleared. -/
theorem AcqInv.clearGroup {s : State} (h : AcqInv s) :
    AcqInv { s with acq := { s.acq with runningSum := 0#40, decCounter := 0#32 } } :=
  { h with
    group := h.dec_pos
    sum := Nat.zero_le _
    waiting := fun hw => ⟨(h.waiting hw).1, rfl⟩ }

/-- The state after LOG stored a value and counted the budget (42_acquire.md R180). -/
def logged (m : Memory) (s : State) : State :=
  { s with
    buf := m
    acq := { s.acq with
      totalAccepted := s.acq.totalAccepted + 1#32, remainingBudget := s.acq.remainingBudget - 1#32 }
    bp :=
      { position := BitVec.ofNat 32 ((s.acq.totalAccepted.toNat + 1) * s.lat.bps.toNat)
        numBits := BitVec.ofNat 32 ((s.acq.totalAccepted.toNat + 1) * s.lat.bps.toNat) } }

/-- While budget is left the count of accepted samples is below the budget, so it does not wrap. -/
theorem AcqInv.accepted_succ {s : State} (h : AcqInv s) (hl : s.acq.remainingBudget ≠ 0#32) :
    (s.acq.totalAccepted + 1#32).toNat = s.acq.totalAccepted.toNat + 1 := by
  have hb := h.balance
  have hpos := toNat_pos_of_ne_zero hl
  exact toNat_succ_of_lt (m := s.lat.budget) (by omega)

/-- The accepted samples fit the buffer. -/
theorem AcqInv.accepted_le {s : State} (h : AcqInv s) : s.acq.totalAccepted.toNat ≤ s.cap := by
  have hb := h.balance
  have hc := h.budget_le
  omega

theorem AcqInv.logged_le {s : State} (h : AcqInv s) (hl : s.acq.remainingBudget ≠ 0#32) :
    (s.acq.totalAccepted + 1#32).toNat ≤ s.cap := by
  have hb := h.balance
  have hc := h.budget_le
  have hpos := toNat_pos_of_ne_zero hl
  rw [h.accepted_succ hl]
  omega

/-- LOG moves one sample from the budget to the accepted ones and both cursors to its end. -/
theorem AcqInv.log {s : State} (h : AcqInv s) (m : Memory) (harm : s.acq.armed = false)
    (hskip : s.acq.skipLeft.toInt ≤ 0) (hl : s.acq.remainingBudget ≠ 0#32)
    (hlive : s.acq.remainingBudget - 1#32 ≠ 0#32) : AcqInv (logged m s) :=
  { h with
    balance := by
      have hb := h.balance
      have hpos := toNat_pos_of_ne_zero hl
      simp only [logged, h.accepted_succ hl, toNat_pred_of_ne_zero hl]
      omega
    live := fun h0 => absurd h0 hlive
    cursor := rfl
    bits := by
      have hcap := cap_lt s
      have hle := h.logged_le hl
      have hs := h.accepted_succ hl
      have hmul : (s.acq.totalAccepted.toNat + 1) * s.lat.bps.toNat ≤ s.cap * 8 :=
        Nat.mul_le_mul (by omega) h.bps_le
      simp only [logged, hs, BitVec.toNat_ofNat]
      exact Nat.mod_eq_of_lt (by omega)
    waiting := fun hw => absurd hw (not_waiting harm hskip) }

/-! ### The lines -/

/-- What the lines of the generic engine lead to: a legal state, or an end with the accepted samples inside the
buffer. -/
abbrev Flow.AcqSat (f : Flow) : Prop :=
  f.Sat (fun t => AcqInv t ∧ BufferOk t.buf t.cap) (fun _ t => t.acq.totalAccepted.toNat ≤ t.cap ∧ BufferOk t.buf t.cap)

theorem logValue_sat (v : Byte) {s : State} (hi : AcqInv s) (hb : BufferOk s.buf s.cap) (harm : s.acq.armed = false)
    (hskip : s.acq.skipLeft.toInt ≤ 0) (hl : s.acq.remainingBudget ≠ 0#32) : (logValue v s).AcqSat := by
  obtain ⟨m, hwf, hin, hstore⟩ := storeSample_ok v s hb.wf hb.within hi hl
  rw [logValue, hstore, ofAccess_ok, andThen_pass]
  unfold countBudget
  simp only []
  split
  · exact ⟨hi.logged_le hl, hwf, hin⟩
  · exact ⟨hi.log m harm hskip hl ‹_›, hwf, hin⟩

/-- With the group counter in its range, DECIM counts the sample or logs a value with the group cleared. -/
theorem decimate_cases_of_inv (x : Byte) {s : State} (hi : AcqInv s) :
    ((s.acq.decCounter + 1#32).toNat < s.lat.dec.toNat ∧
      decimate x s = .discard
        { s with
          acq := { s.acq with
            runningSum := s.acq.runningSum + x.setWidth 40, decCounter := s.acq.decCounter + 1#32 } }) ∨
    ∃ v, decimate x s = logValue v { s with acq := { s.acq with runningSum := 0#40, decCounter := 0#32 } } := by
  have hg := hi.group
  unfold decimate
  simp only []
  split
  · split
    · exact .inl ⟨‹_›, rfl⟩
    · exact .inr ⟨_, rfl⟩
  · have h0 : s.acq.decCounter = 0#32 := BitVec.eq_of_toNat_eq (by simp; omega)
    simp only [closeGroup, h0]
    exact .inr ⟨_, rfl⟩

theorem decimate_sat (x : Byte) {s : State} (hi : AcqInv s) (hb : BufferOk s.buf s.cap) (harm : s.acq.armed = false)
    (hskip : s.acq.skipLeft.toInt ≤ 0) (hl : s.acq.remainingBudget ≠ 0#32) : (decimate x s).AcqSat := by
  rcases decimate_cases_of_inv x hi with ⟨hn, h⟩ | ⟨v, h⟩
  · rw [h]; exact ⟨hi.count x harm hskip hn, hb⟩
  · rw [h]; exact logValue_sat v hi.clearGroup hb harm hskip hl

/-- GATE fires, or uses the sample up with the cancel count below its bound, or ends the call. -/
theorem gate_cases_of_inv (x : Byte) {s : State} (hi : AcqInv s) :
    gate x s = .pass { s with acq := { s.acq with armed := false } } ∨
    ∃ n, gate x s = .terminate .noSignal { s with acq := { s.acq with cancelCnt := n } } ∨
      (s.lat.cancel ≠ 0#32 → n.toNat < s.lat.cancel.toNat) ∧
        gate x s = .discard { s with acq := { s.acq with cancelCnt := n } } := by
  rcases gate_cases x s with h | ⟨ha, hin, -⟩
  · exact .inl h
  · refine .inr ?_
    unfold gate
    rw [if_pos ha, if_pos hin]
    split
    · rename_i h0; exact ⟨s.acq.cancelCnt, .inr ⟨fun hne => absurd h0 hne, rfl⟩⟩
    · rename_i h0
      simp only []
      split
      · exact ⟨_, .inl rfl⟩
      · rename_i hne; exact ⟨_, .inr ⟨fun _ => succ_lt_of_ne (hi.cancel h0) hne, rfl⟩⟩

theorem processSample_sat (x : Byte) {s : State} (hi : AcqInv s) (hb : BufferOk s.buf s.cap) :
    (processSample x s).AcqSat := by
  unfold processSample
  split
  · exact ⟨hi.accepted_le, hb⟩
  · rename_i hl
    rcases gate_cases_of_inv x hi with h | ⟨n, h | ⟨hn, h⟩⟩
    · rw [h, andThen_pass]
      rcases skipSample_cases { s with acq := { s.acq with armed := false } } with ⟨hpos, h'⟩ | ⟨hle, h'⟩
      · rw [h', andThen_discard]; exact ⟨hi.fire.skip hpos, hb⟩
      · rw [h', andThen_pass]; exact decimate_sat x hi.fire hb rfl hle hl
    · rw [h, andThen_terminate, andThen_terminate]; exact ⟨hi.accepted_le, hb⟩
    · rw [h, andThen_discard, andThen_discard]; exact ⟨hi.with_cancelCnt hn, hb⟩

/-- The race check goes on with its counter below the period, or ends the call. -/
theorem raceCheck_cases_of_inv (inp : Input) {s : State} (hi : AcqInv s) (hp : 1 ≤ s.params.racePeriod.toNat) :
    ∃ n, raceCheck inp s = .terminate .raceAbort { s with acq := { s.acq with raceCnt := n } } ∨
      (s.acq.armed = true → n.toNat < s.params.racePeriod.toNat) ∧
        raceCheck inp s = .pass { s with acq := { s.acq with raceCnt := n } } := by
  unfold raceCheck
  split
  · rename_i ha
    simp only []
    split
    · split
      · exact ⟨_, .inl rfl⟩
      · exact ⟨0#32, .inr ⟨fun _ => hp, rfl⟩⟩
    · rename_i hne
      exact ⟨_, .inr ⟨fun _ => succ_lt_of_ne (hi.armed_race ha) hne, rfl⟩⟩
  · rename_i ha
    exact ⟨s.acq.raceCnt, .inr ⟨fun h => absurd h ha, rfl⟩⟩

theorem kickAndProcess_sat (inp : Input) {s : State} (hi : AcqInv s) (hb : BufferOk s.buf s.cap) :
    (kickAndProcess inp s).AcqSat := by
  cases hr : inp.rxReady with
  | true =>
    rw [kickAndProcess_of_ready inp s hr]
    exact processSample_sat _ (hi.congr rfl rfl rfl rfl) hb
  | false =>
    rw [kickAndProcess_of_not_ready inp s hr]
    exact ⟨hi.congr rfl rfl rfl rfl, hb⟩

/-- A poll iteration of the ACQ family from a legal state faults nowhere and leads to a legal state or ends the call. -/
theorem iterateAcquisition_sat (inp : Input) {s : State} (hi : AcqInv s) (hb : BufferOk s.buf s.cap)
    (hp : 1 ≤ s.params.racePeriod.toNat) : (iterateAcquisition inp s).AcqSat := by
  unfold iterateAcquisition
  split
  · exact ⟨hi.accepted_le, hb⟩
  · obtain ⟨n, h | ⟨hn, h⟩⟩ := raceCheck_cases_of_inv inp hi hp
    · rw [h, andThen_terminate]; exact ⟨hi.accepted_le, hb⟩
    · rw [h, andThen_pass]; exact kickAndProcess_sat inp (hi.with_raceCnt hn) hb

end Sys2Proof.Machine
end

section
/-! EDGE, MFILL and MBITS keep their invariants: each iteration from a legal state leads to a legal one or ends the call
with the state untouched (10_state.md R33 to R39, 44_edge_capture.md R222 to R230, 45_manchester.md R242 to R256). -/

namespace Sys2Proof.Machine

/-! ### The byte write inside the limit -/

/-- A byte written inside the capacity keeps the buffer in its form. -/
theorem BufferOk.write {m : Memory} {cap : Nat} (hb : BufferOk m cap) {a : Nat} (ha : a < cap) (v : Byte) :
    BufferOk (m.write a v) cap :=
  ⟨Memory.write_wf _ _ _ hb.wf, Memory.write_within _ _ _ _ hb.within ha⟩

/-! ### EDGE -/

theorem edgePhaseBits_le (p : EdgePhase) : (edgePhaseBits p).toNat ≤ 4 := by cases p <;> decide

/-- EDGE's five `PHASE` values are 0 to 4 (10_state.md R22). -/
theorem edgePhase_ne_none {b : BitVec 3} (h : b.toNat ≤ 4) : edgePhase b ≠ none := by
  revert b
  decide

/-- The invariant of EDGE with its states. -/
def EdgeCall (s : State) : Prop := EdgeInv s ∧ s.phaseReg.toNat ≤ 4

/-- The invariant reads the limit, `idx`, EDGE's registers, `PHASE` and the parameters only. -/
theorem EdgeInv.congr {s t : State} (h : EdgeInv s) (hlat : t.lat = s.lat) (hidx : t.idx = s.idx)
    (hedge : t.edge = s.edge) (hph : t.phaseReg = s.phaseReg) (hpar : t.params = s.params) : EdgeInv t := by
  have hcap : t.cap = s.cap := by simp only [State.cap, hpar]
  cases h
  constructor <;> simp only [hlat, hidx, hedge, hph, hcap] <;> assumption

/-- What the lines of EDGE lead to when they go on. -/
abbrev Flow.EdgeSat (f : Flow) : Prop := f.Sat (fun t => EdgeCall t ∧ BufferOk t.buf t.cap) (fun _ _ => False)

/-- A sample discarded in a seeking state counts, up to the bound. -/
theorem EdgeInv.discard {s : State} (hi : EdgeInv s) (hs : s.edge.skipCnt.toNat < Config.edgeSkipMax)
    (hp : s.phaseReg.toNat ≤ 3) : EdgeInv (countSkip s) :=
  { hi with
    skip_le := by
      have h1000 : Config.edgeSkipMax = (1000#32).toNat := rfl
      rw [h1000] at hs
      simp only [countSkip_edge, toNat_succ_of_lt hs]
      exact hs
    collecting := fun h => by simp only [countSkip_phaseReg] at h; omega }

theorem edgeSeekHigh_sat (x : Byte) {s : State} (hi : EdgeInv s) (hb : BufferOk s.buf s.cap)
    (hs : s.edge.skipCnt.toNat < Config.edgeSkipMax) (hp : s.phaseReg.toNat ≤ 1) : (edgeSeekHigh x s).EdgeSat := by
  have hidx := hi.seeking (by omega)
  unfold edgeSeekHigh
  split
  · exact ⟨⟨{ hi with seeking := fun _ => hidx, collecting := nofun, remembered := nofun }, edgePhaseBits_le _⟩, hb⟩
  · have hd := hi.discard hs (by omega)
    exact ⟨⟨{ hd with seeking := fun _ => hidx, collecting := nofun, remembered := nofun }, edgePhaseBits_le _⟩,
      hb⟩

theorem edgeSeekLow_sat (x : Byte) {s : State} (hi : EdgeInv s) (hb : BufferOk s.buf s.cap)
    (hs : s.edge.skipCnt.toNat < Config.edgeSkipMax) (hp : s.phaseReg.toNat = 2) : (edgeSeekLow x s).EdgeSat := by
  have hidx := hi.seeking (by omega)
  unfold edgeSeekLow
  split
  · rename_i hx
    exact ⟨⟨{ hi with seeking := fun _ => hidx, collecting := nofun, remembered := fun _ => hx }, edgePhaseBits_le _⟩,
      hb⟩
  · exact ⟨⟨hi.discard hs (by omega), by simp only [countSkip_phaseReg]; omega⟩, hb⟩

/-- The transition writes one byte at 0, and a second at 1 where the limit leaves room. -/
theorem transition_of_idx_zero (v x : Byte) {s : State} (hb : BufferOk s.buf s.cap) (hidx : s.idx = 0#32)
    (hlim : 0 < s.lat.limit.toNat) (hcap : s.lat.limit.toNat ≤ s.cap) :
    ∃ m n, (putByte v s).andThen (putTransition x) = .pass { s with buf := m, idx := n } ∧
      BufferOk m s.cap ∧ 1 ≤ n.toNat ∧ n.toNat ≤ s.lat.limit.toNat := by
  have h0 : s.idx.toNat < s.cap := by simp [hidx]; omega
  have hw := hb.write h0 v
  rw [putByte_of_lt v s h0, andThen_pass]
  unfold putTransition
  simp only [hidx] at hw ⊢
  split
  · rename_i h1
    have h1' : (0#32 + 1#32).toNat < s.cap := Nat.lt_of_lt_of_le h1 hcap
    exact ⟨_, _, putByte_of_lt x _ h1', hw.write h1' x, (by decide : 1 ≤ (0#32 + 1#32 + 1#32).toNat), h1⟩
  · exact ⟨_, _, rfl, hw, by decide, hlim⟩

theorem edgePreCollect_sat (x : Byte) {s : State} (hi : EdgeInv s) (hb : BufferOk s.buf s.cap)
    (hs : s.edge.skipCnt.toNat < Config.edgeSkipMax) (hp : s.phaseReg.toNat = 3)
    (hlt : s.idx.toNat < s.lat.limit.toNat) : (edgePreCollect x s).EdgeSat := by
  have hidx := hi.seeking (by omega)
  unfold edgePreCollect
  split
  · obtain ⟨m, n, h, hm, h1, hn⟩ :=
      transition_of_idx_zero s.edge.lastSample x hb hidx (by omega) hi.limit_le
    rw [h, andThen_pass]
    exact ⟨⟨{ hi with
      idx_le := hn, seeking := nofun, collecting := fun _ => ⟨h1, hs⟩, remembered := nofun }, edgePhaseBits_le _⟩, hm⟩
  · have hd := hi.discard hs (by omega)
    simp only []
    split
    · rename_i hx
      exact ⟨⟨{ hd with remembered := fun _ => hx }, hp.trans_le (by decide)⟩, hb⟩
    · exact ⟨⟨hd, hp.trans_le (by decide)⟩, hb⟩

theorem edgeCollect_sat (x : Byte) {s : State} (hi : EdgeInv s) (hb : BufferOk s.buf s.cap)
    (hs : s.edge.skipCnt.toNat < Config.edgeSkipMax) (hp : s.phaseReg.toNat = 4)
    (hlt : s.idx.toNat < s.lat.limit.toNat) : (edgeCollect x s).EdgeSat := by
  have hcap : s.idx.toNat < s.cap := hlt.trans_le hi.limit_le
  have hn := toNat_succ_of_lt hlt
  rw [edgeCollect, putByte_of_lt x s hcap]
  exact ⟨⟨{ hi with
    idx_le := hn.trans_le hlt
    seeking := fun h => absurd (hp.symm.trans_le h) (by decide)
    collecting := fun _ => ⟨by simp only [hn]; omega, hs⟩ }, hp.le⟩, hb.write hcap x⟩

/-- Line 5 of 44_edge_capture.md R222 from a legal state, before the limit and the discards' bound. -/
theorem edgeSample_sat (x : Byte) {s : State} (hi : EdgeCall s) (hb : BufferOk s.buf s.cap)
    (hs : s.edge.skipCnt.toNat < Config.edgeSkipMax) (hlt : s.idx.toNat < s.lat.limit.toNat) :
    (edgeSample x s).EdgeSat := by
  obtain ⟨hi, hp⟩ := hi
  unfold edgeSample
  split
  · rename_i h; exact edgeSeekHigh_sat x hi hb hs (phaseReg_of_edgePhase h ▸ by decide)
  · rename_i h; exact edgeSeekHigh_sat x hi hb hs (phaseReg_of_edgePhase h ▸ by decide)
  · rename_i h; exact edgeSeekLow_sat x hi hb hs (phaseReg_of_edgePhase h ▸ by decide)
  · rename_i h; exact edgePreCollect_sat x hi hb hs (phaseReg_of_edgePhase h ▸ by decide) hlt
  · rename_i h; exact edgeCollect_sat x hi hb hs (phaseReg_of_edgePhase h ▸ by decide) hlt
  · rename_i h; exact absurd h (edgePhase_ne_none hp)

/-- A poll iteration of EDGE from a legal state faults nowhere; it leads to a legal state, or ends the call before
anything changed. -/
theorem iterateEdge_sat (inp : Input) {s : State} (hi : EdgeCall s) (hb : BufferOk s.buf s.cap) :
    (iterateEdge inp s).Sat (fun t => EdgeCall t ∧ BufferOk t.buf t.cap) (fun _ t => t = s) := by
  unfold iterateEdge
  split
  · rfl
  split
  · rfl
  split
  · rfl
  rename_i hlim hskip _
  have hi' : EdgeCall (s.emit .wdtKick) := ⟨hi.1.congr rfl rfl rfl rfl rfl, hi.2⟩
  simp only []
  split
  · exact sat_mono
      (edgeSample_sat inp.sample (s := (s.emit .wdtKick).consumeSample) ⟨hi'.1.congr rfl rfl rfl rfl rfl, hi.2⟩
        hb (Nat.lt_of_not_le hskip) (Nat.lt_of_not_le hlim))
      (fun _ h => h) (fun _ _ h => h.elim)
  · exact ⟨hi', hb⟩

/-! ### MFILL and MBITS -/

theorem manPhaseBits_le (p : ManPhase) : (manPhaseBits p).toNat ≤ 2 := by cases p <;> decide

/-- The three `PHASE` values of MFILL and MBITS are 0 to 2 (10_state.md R22). -/
theorem manPhase_ne_none {b : BitVec 3} (h : b.toNat ≤ 2) : manPhase b ≠ none := by
  revert b
  decide

/-- A whole period is a period in its range. -/
theorem t1_range : 1 ≤ (BitVec.ofNat 32 Config.t1).toNat ∧ (BitVec.ofNat 32 Config.t1).toNat ≤ Config.t1 := by decide

/-- The invariant of the Manchester engines with their states. -/
def ManCall (s : State) : Prop := ManInv s ∧ s.phaseReg.toNat ≤ 2

/-- The invariant reads the limit, `idx`, the Manchester registers, `PHASE` and the parameters only. -/
theorem ManInv.congr {s t : State} (h : ManInv s) (hlat : t.lat = s.lat) (hidx : t.idx = s.idx)
    (hman : t.man = s.man) (hph : t.phaseReg = s.phaseReg) (hpar : t.params = s.params) : ManInv t := by
  have hcap : t.cap = s.cap := by simp only [State.cap, hpar]
  cases h
  constructor <;> simp only [hlat, hidx, hman, hph, hcap] <;> assumption

/-- What the lines of MFILL and MBITS lead to when they go on. -/
abbrev Flow.ManSat (f : Flow) : Prop := f.Sat (fun t => ManCall t ∧ BufferOk t.buf t.cap) (fun _ _ => False)

/-- A sample that is no peak counts as noise, up to the bound. -/
theorem ManInv.noise {s : State} (hi : ManInv s) (hn : s.man.noiseCnt.toNat ≤ Config.noiseMax)
    (hp : s.phaseReg.toNat < 2) : ManInv (countNoise s) :=
  { hi with
    noise_le := by
      have h768 : Config.noiseMax + 1 = (769#32).toNat := rfl
      have hlt : s.man.noiseCnt.toNat < (769#32).toNat := h768 ▸ Nat.lt_succ_of_le hn
      simp only [countNoise_man, toNat_succ_of_lt hlt]
      exact Nat.succ_le_succ hn
    data_noise := fun h => by simp only [countNoise_phaseReg] at h; omega }

theorem manSeekHigh_sat (x : Byte) {s : State} (hi : ManInv s) (hb : BufferOk s.buf s.cap)
    (hn : s.man.noiseCnt.toNat ≤ Config.noiseMax) (hp : s.phaseReg.toNat = 0) : (manSeekHigh x s).ManSat := by
  have hidx := hi.seeking (by omega)
  unfold manSeekHigh
  split
  · exact ⟨⟨{ hi with
      noise_le := Nat.zero_le _, seeking := fun _ => hidx, data_noise := nofun, hold := .inr rfl }, manPhaseBits_le _⟩,
      hb⟩
  · exact ⟨⟨hi.noise hn (by omega), by simp only [countNoise_phaseReg]; omega⟩, hb⟩

theorem manSeekLow_sat (x : Byte) {s : State} (hi : ManInv s) (hb : BufferOk s.buf s.cap)
    (hn : s.man.noiseCnt.toNat ≤ Config.noiseMax) (hp : s.phaseReg.toNat = 1) : (manSeekLow x s).ManSat := by
  unfold manSeekLow
  split
  · exact ⟨⟨{ hi with
      noise_le := Nat.zero_le _
      seeking := fun h => absurd h (by decide : ¬(manPhaseBits .data).toNat < 2)
      data_noise := fun _ => rfl
      hold := .inl rfl
      period_pos := t1_range.1
      period_le := t1_range.2 }, manPhaseBits_le _⟩, hb⟩
  · exact ⟨⟨hi.noise hn (by omega), by simp only [countNoise_phaseReg]; omega⟩, hb⟩

/-- A byte written at `idx` in the data state. -/
theorem ManInv.put {s : State} (hi : ManInv s) (hp : s.phaseReg.toNat = 2) (hlt : s.idx.toNat < s.lat.limit.toNat)
    (m : Memory) : ManInv { s with buf := m, idx := s.idx + 1#32 } :=
  { hi with
    idx_le := (toNat_succ_of_lt hlt).trans_le hlt
    seeking := fun h => absurd (hp ▸ h) (by decide) }

/-- What a data rule of MFILL or MBITS keeps in the data state. -/
def KeepsManchester (data : Byte → State → Flow) : Prop :=
  ∀ (x : Byte) (s : State), ManInv s → BufferOk s.buf s.cap → s.phaseReg.toNat = 2 → s.idx.toNat < s.lat.limit.toNat →
    (data x s).ManSat

theorem fillData_sat : KeepsManchester fillData := by
  intro x s hi hb hp hlt
  have hcap : s.idx.toNat < s.cap := hlt.trans_le hi.limit_le
  have hq : quantize 255#8 0#8 x s.man.hold = 0#8 ∨ quantize 255#8 0#8 x s.man.hold = 255#8 := by
    rcases quantize_cases 255#8 0#8 x s.man.hold with ⟨-, h⟩ | ⟨-, h⟩ | ⟨-, h⟩
    · exact .inr h
    · exact .inl h
    · rw [h]; exact hi.hold
  unfold fillData
  simp only []
  rw [putByte_of_lt _ s hcap, andThen_pass]
  exact ⟨⟨{ hi.put hp hlt s.buf with hold := hq }, hp.le⟩, hb.write hcap _⟩

/-- The half-bits of MBITS and a period in its range. -/
theorem ManInv.updateBit {s : State} (hi : ManInv s) (x : Byte) {n : Word} (h1 : 1 ≤ n.toNat)
    (hn : n.toNat ≤ Config.t1) : ManInv { s with man := { updateBit x s.man with period := n } } :=
  { hi with
    noise_le := by simpa using hi.noise_le
    data_noise := by simpa using hi.data_noise
    hold := by simpa using hi.hold
    period_pos := h1
    period_le := hn }

theorem bitsData_sat : KeepsManchester bitsData := by
  intro x s hi hb hp hlt
  have hcap : s.idx.toNat < s.cap := hlt.trans_le hi.limit_le
  have hper := hi.period_le
  unfold bitsData
  simp only [updateBit_period]
  split
  · rw [putByte_of_lt (flagBit 8 (updateBit x s.man).curr)
      { s with man := { updateBit x s.man with period := s.man.period - 1#32 } } hcap, andThen_pass]
    have hput := (hi.updateBit x t1_range.1 t1_range.2).put hp hlt s.buf
    exact ⟨⟨{ hput with }, hp.le⟩, hb.write hcap _⟩
  · rename_i hne
    have hpos := toNat_pos_of_ne_zero hne
    have hne0 : s.man.period ≠ 0#32 := fun h0 => by have := hi.period_pos; simp [h0] at this
    have hle : (s.man.period - 1#32).toNat ≤ Config.t1 := by rw [toNat_pred_of_ne_zero hne0]; omega
    exact ⟨⟨hi.updateBit x hpos hle, hp.le⟩, hb⟩

/-- Line 5 of 45_manchester.md R242 from a legal state, before the limit and the noise bound. -/
theorem manSample_sat {data : Byte → State → Flow} (hd : KeepsManchester data) (x : Byte) {s : State}
    (hi : ManCall s) (hb : BufferOk s.buf s.cap) (hn : s.man.noiseCnt.toNat ≤ Config.noiseMax)
    (hlt : s.idx.toNat < s.lat.limit.toNat) : (manSample data x s).ManSat := by
  obtain ⟨hi, hp⟩ := hi
  unfold manSample
  split
  · rename_i h; exact manSeekHigh_sat x hi hb hn (phaseReg_of_manPhase h ▸ by decide)
  · rename_i h; exact manSeekLow_sat x hi hb hn (phaseReg_of_manPhase h ▸ by decide)
  · rename_i h; exact hd x s hi hb (phaseReg_of_manPhase h ▸ by decide) hlt
  · rename_i h; exact absurd h (manPhase_ne_none hp)

/-- A poll iteration of MFILL or MBITS from a legal state faults nowhere; it leads to a legal state, or ends the call
before anything changed. -/
theorem iterateManchester_sat {data : Byte → State → Flow} (hd : KeepsManchester data) (inp : Input) {s : State}
    (hi : ManCall s) (hb : BufferOk s.buf s.cap) :
    (iterateManchester data inp s).Sat (fun t => ManCall t ∧ BufferOk t.buf t.cap) (fun _ t => t = s) := by
  unfold iterateManchester
  split
  · rfl
  split
  · rfl
  split
  · rfl
  rename_i hlim hnoise _
  have hi' : ManCall (s.emit .wdtKick) := ⟨hi.1.congr rfl rfl rfl rfl rfl, hi.2⟩
  simp only []
  split
  · exact sat_mono
      (manSample_sat hd inp.sample (s := (s.emit .wdtKick).consumeSample) ⟨hi'.1.congr rfl rfl rfl rfl rfl, hi.2⟩
        hb (Nat.le_of_not_lt hnoise) (Nat.lt_of_not_le hlim))
      (fun _ h => h) (fun _ _ h => h.elim)
  · exact ⟨hi', hb⟩

end Sys2Proof.Machine
end

section
/-! Every step keeps legality (10_state.md R22 to R39, R58; 20_memory.md R70): the invariant by the command in `OP`, its
start by each acceptance, and the kinds of a step. -/

namespace Sys2Proof.Machine

/-! ### The invariant by the command -/

/-- A looping command is of the ACQ family or one of the three specialized ones (30_encoding.md R104). -/
theorem looping_cases {i : Instr} (h : i.looping = true) :
    i.acqFamily = true ∨ i = .edge ∨ i = .mfill ∨ i = .mbits := by
  cases i <;> simp [Instr.looping, Instr.acqFamily] at h ⊢

/-- The engine's part of the invariant during a call of a command. -/
structure EngineInv (i : Instr) (s : State) : Prop where
  looping : i.looping = true
  acq : i.acqFamily = true → AcqInv s
  edge : i = .edge → EdgeCall s
  man : i = .mfill ∨ i = .mbits → ManCall s

/-- The ACQ family is looping, and none of the specialized commands is of it (30_encoding.md R104). -/
theorem acqFamily_facts {i : Instr} (hi : i.acqFamily = true) :
    i.looping = true ∧ i ≠ .edge ∧ ¬(i = .mfill ∨ i = .mbits) := by
  cases i <;> simp [Instr.looping, Instr.acqFamily] at hi ⊢

theorem EngineInv.of_acq {i : Instr} {s : State} (hi : i.acqFamily = true) (h : AcqInv s) : EngineInv i s :=
  have ⟨hl, hedge, hman⟩ := acqFamily_facts hi
  ⟨hl, fun _ => h, fun he => absurd he hedge, fun hm => absurd hm hman⟩

theorem EngineInv.of_edge {s : State} (h : EdgeCall s) : EngineInv .edge s := ⟨rfl, nofun, fun _ => h, nofun⟩

theorem EngineInv.of_mfill {s : State} (h : ManCall s) : EngineInv .mfill s := ⟨rfl, nofun, nofun, fun _ => h⟩

theorem EngineInv.of_mbits {s : State} (h : ManCall s) : EngineInv .mbits s := ⟨rfl, nofun, nofun, fun _ => h⟩

/-- The stored `PHASE` values of a command (10_state.md R22). -/
structure PhaseOk (i : Instr) (p : BitVec 3) : Prop where
  edge : i = .edge → p.toNat ≤ 4
  man : i = .mfill ∨ i = .mbits → p.toNat ≤ 2
  other : i.looping = false → p = 0#3

theorem phaseInv_iff {s : State} {i : Instr} (hop : s.op = i.opcode) : PhaseInv s ↔ PhaseOk i s.phaseReg := by
  have hedge : opIs (fun i => decide (i = .edge)) s = true ↔ i = .edge := by simp [opIs_of_op _ s i hop]
  have hman : opIs (fun i => decide (i = .mfill) || decide (i = .mbits)) s = true ↔ i = .mfill ∨ i = .mbits := by
    simp [opIs_of_op _ s i hop]
  have hloop : opIs Instr.looping s = i.looping := opIs_of_op _ s i hop
  constructor
  · rintro ⟨he, hm, ho⟩
    exact ⟨he ∘ hedge.2, hm ∘ hman.2, ho ∘ hloop.trans⟩
  · rintro ⟨he, hm, ho⟩
    exact ⟨he ∘ hedge.1, hm ∘ hman.1, ho ∘ hloop.symm.trans⟩

/-- `PHASE` 0 is a value of every command. -/
theorem phaseOk_zero (i : Instr) : PhaseOk i 0#3 := ⟨fun _ => by decide, fun _ => by decide, fun _ => rfl⟩

theorem EngineInv.phaseOk {i : Instr} {s : State} (h : EngineInv i s) : PhaseOk i s.phaseReg where
  edge := fun hi => (h.edge hi).2
  man := fun hi => (h.man hi).2
  other := fun hi => by simp [h.looping] at hi

/-- A legal state of an idle block: no engine is looked at. -/
theorem inv_of_idle {s : State} {i : Instr} (hb : s.busy = false) (hop : s.op = i.opcode) (hph : PhaseOk i s.phaseReg)
    (hbuf : BufferInv s) (hpar : s.params.wf = true) (hcfg : ConfigInv s.cfg) : s.Inv where
  sequencer := ⟨.inr ⟨i, hop⟩, by simp [hb], by simp [hb], by simp [hb]⟩
  phase := (phaseInv_iff hop).2 hph
  buffer := hbuf
  params := hpar
  config := hcfg
  acq := fun h => by simp [inCall, hb] at h
  edge := fun h => by simp [inCall, hb] at h
  man := fun h => by simp [inCall, hb] at h

/-- A legal state of a call: the engine of the command in `OP` is looked at. -/
theorem inv_of_call {s : State} {i : Instr} (hop : s.op = i.opcode) (hc : s.cause = .none) (hd : s.postDue = none)
    (hbuf : BufferOk s.buf s.cap) (hpar : s.params.wf = true) (hcfg : ConfigInv s.cfg) (he : EngineInv i s) :
    s.Inv where
  sequencer := ⟨.inr ⟨i, hop⟩, fun _ => (opIs_of_op _ s i hop).trans he.looping, fun _ => hc, fun _ => hd⟩
  phase := (phaseInv_iff hop).2 he.phaseOk
  buffer := ⟨hbuf.wf, hbuf.within, by simp [hd]⟩
  params := hpar
  config := hcfg
  acq := fun h => he.acq ((opIs_of_op _ s i hop).symm.trans h.2)
  edge := fun h => (he.edge (of_decide_eq_true ((opIs_of_op _ s i hop).symm.trans h.2))).1
  man := fun h => (he.man (by simpa using (opIs_of_op _ s i hop).symm.trans h.2)).1

/-- In a legal state of a call the engine of the command in `OP` is legal. -/
theorem State.Inv.engine {s : State} (h : s.Inv) (hb : s.busy = true) {i : Instr} (hop : s.op = i.opcode) :
    EngineInv i s where
  looping := (opIs_of_op _ s i hop).symm.trans (h.sequencer.busy_looping hb)
  acq := fun hi => h.acq ⟨hb, (opIs_of_op _ s i hop).trans hi⟩
  edge := fun hi => ⟨h.edge ⟨hb, by simp [opIs_of_op _ s i hop, hi]⟩, ((phaseInv_iff hop).1 h.phase).edge hi⟩
  man := fun hi => ⟨h.man ⟨hb, by simpa [opIs_of_op _ s i hop] using hi⟩, ((phaseInv_iff hop).1 h.phase).man hi⟩

/-- No part of the invariant reads the operands, the sticky bits, the environment's list, the counter of free inputs or
the value of the last host read. -/
theorem State.Inv.with_hostData {s : State} (h : s.Inv) (x : Args) (ill rej : Bool) (p : List Move) (n : Nat)
    (d : Word) : State.Inv { s with args := x, ill := ill, rej := rej, pending := p, freeIndex := n, readData := d } where
  sequencer := { h.sequencer with }
  phase := { h.phase with }
  buffer := { h.buffer with }
  params := h.params
  config := h.config
  acq := fun hc => (h.acq hc).congr rfl rfl rfl rfl
  edge := fun hc => (h.edge hc).congr rfl rfl rfl rfl rfl
  man := fun hc => (h.man hc).congr rfl rfl rfl rfl rfl

/-! ### CFGMERGE -/

/-- CFGMERGE writes a field only with a value of its domain (10_state.md R58, 41_config.md R141 to R148). -/
theorem mergeConfig_inv (x : Args) {c : SamplingConfig} (h : ConfigInv c) : ConfigInv (mergeConfig x c) where
  decimation := by
    simp only [mergeConfig, mergeDecimation]
    split
    · rw [BitVec.toNat_ofInt]; omega
    · exact h.decimation
  bits_pos := by
    simp only [mergeConfig, mergeBitsPerSample]
    split
    · rw [BitVec.toNat_ofInt]; omega
    · exact h.bits_pos
  bits_le := by
    simp only [mergeConfig, mergeBitsPerSample]
    split
    · rw [BitVec.toNat_ofInt]; omega
    · exact h.bits_le
  divisor := by
    simp only [mergeConfig, mergeDivisor]
    split
    · rw [BitVec.toNat_ofInt]; omega
    · exact h.divisor
  threshold := by
    simp only [mergeConfig, mergeNonNegative, sext32, BitVec.ofInt_toInt]
    split
    · assumption
    · exact h.threshold
  skip := by
    simp only [mergeConfig, mergeNonNegative, sext32, BitVec.ofInt_toInt]
    split
    · assumption
    · exact h.skip

/-- Every command keeps the configuration in its domains. -/
theorem acceptance_config (i : Instr) {s : State} (h : ConfigInv s.cfg) : ConfigInv (acceptance i s).cfg := by
  rcases eq_or_ne i .cfgmerge with rfl | hi
  · simp only [acceptance, acceptCfgmerge]
    rw [reportConfig_eq]
    exact mergeConfig_inv s.args h
  · rw [acceptance_cfg hi]; exact h

/-! ### The start of a call -/

/-- The generic engine starts legal when its latches are in their domains (42_acquire.md R160, R161). -/
theorem startAcquisition_inv {skip : Word} {s : State} (hdec : 1 ≤ s.lat.dec.toNat) (hbps : 1 ≤ s.lat.bps.toNat)
    (hbps' : s.lat.bps.toNat ≤ 8) (hbud : s.lat.budget.toNat ≤ s.cap) (hskip : 0 ≤ skip.toInt)
    (hper : 1 ≤ s.params.racePeriod.toNat) : AcqInv (startAcquisition skip s) where
  dec_pos := hdec
  bps_pos := hbps
  bps_le := hbps'
  budget_le := hbud
  balance := by simp [startAcquisition_eq]
  live := id
  group := hdec
  sum := Nat.zero_le _
  cursor := rfl
  bits := by simp [startAcquisition_eq]
  skip_nonneg := hskip
  armed_thr := of_decide_eq_true
  armed_race := fun _ => hper
  cancel := fun h => toNat_pos_of_ne_zero h
  waiting := fun _ => ⟨rfl, rfl⟩

/-- READLF, READER and SNIFF start the generic engine legal, their latches being the configuration (43_frontend.md
R205). -/
theorem startFrontEndCall_inv (field verbose : Bool) (budget : Word) {s : State} (hc : ConfigInv s.cfg)
    (hper : 1 ≤ s.params.racePeriod.toNat) : AcqInv (startFrontEndCall field verbose budget s) := by
  have hdec : (s.cfg.decimation.setWidth 32).toNat = s.cfg.decimation.toNat :=
    BitVec.toNat_setWidth_of_le (by decide)
  exact startAcquisition_inv (hc.decimation.trans_eq hdec.symm) hc.bits_pos hc.bits_le (clampToCap_le s budget) hc.skip
    hper

theorem acceptAcq_inv {s : State} (hper : 1 ≤ s.params.racePeriod.toNat) : AcqInv (acceptAcq s) :=
  startAcquisition_inv (decOperand_pos _) (bpsOperand_range _).1 (bpsOperand_range _).2 (clampToCap_le s _)
    (skipOperand_nonneg _) hper

theorem acceptEdge_inv (s : State) : EdgeCall (acceptEdge s) where
  left :=
    { limit_le := clampToCap_le s _
      idx_le := Nat.zero_le _
      skip_le := Nat.zero_le _
      seeking := fun _ => rfl
      collecting := nofun
      remembered := nofun }
  right := edgePhaseBits_le .seekSkip

theorem startManchester_inv (s : State) : ManCall (startManchester s) where
  left :=
    { limit_le := clampToCap_le s _
      idx_le := Nat.zero_le _
      noise_le := Nat.zero_le _
      seeking := fun _ => rfl
      data_noise := nofun
      hold := .inl rfl
      period_pos := t1_range.1
      period_le := t1_range.2 }
  right := manPhaseBits_le .seekHigh

/-- Every looping acceptance starts its engine legal. -/
theorem acceptance_engine {i : Instr} (hl : i.looping = true) {s : State} (hc : ConfigInv s.cfg)
    (hper : 1 ≤ s.params.racePeriod.toNat) : EngineInv i (acceptance i s) := by
  cases i with
  | acq => exact .of_acq rfl (acceptAcq_inv hper)
  | readlf => exact .of_acq rfl (startFrontEndCall_inv _ _ _ hc hper)
  | reader => exact .of_acq rfl (startFrontEndCall_inv _ _ _ hc hper)
  | sniff => exact .of_acq rfl (startFrontEndCall_inv _ _ _ hc hper)
  | edge => exact .of_edge (acceptEdge_inv s)
  | mfill => exact .of_mfill (startManchester_inv s)
  | mbits => exact .of_mbits (startManchester_inv s)
  | cfgmerge => cases hl
  | cfgrd => cases hl
  | arm => cases hl

/-- An idle legal block accepts every command into a legal state. -/
theorem acceptance_inv (i : Instr) {s : State} (h : s.Inv) (hb : s.busy = false) (p : List Move) :
    (acceptance i { s with pending := p, op := i.opcode }).Inv := by
  have hop := acceptance_op i { s with pending := p, op := i.opcode }
  have hcap : (acceptance i { s with pending := p, op := i.opcode }).cap = s.cap := by simp [State.cap]
  have hpar : (acceptance i { s with pending := p, op := i.opcode }).params.wf = true :=
    (congrArg _ (acceptance_params i _)).trans h.params
  have hcfg : ConfigInv (acceptance i { s with pending := p, op := i.opcode }).cfg := acceptance_config i h.config
  obtain ⟨-, -, -, hper⟩ := (params_wf_iff _).1 h.params
  cases hl : i.looping with
  | true =>
    obtain ⟨-, hcause, hdue, -⟩ := acceptance_of_looping hl { s with pending := p, op := i.opcode }
    refine inv_of_call hop hcause hdue ?_ hpar hcfg (acceptance_engine hl h.config hper)
    rw [acceptance_buf, hcap]
    exact ⟨h.buffer.wf, h.buffer.within⟩
  | false =>
    obtain ⟨hbusy, -, hph, hdue⟩ := acceptance_of_instant hl { s with pending := p, op := i.opcode }
    refine inv_of_idle (hbusy.trans hb) hop ?_ ?_ hpar hcfg
    · rw [hph]; exact phaseOk_zero i
    · constructor
      · rw [acceptance_buf]; exact h.buffer.wf
      · rw [acceptance_buf, hcap]; exact h.buffer.within
      · rw [hdue, hcap]; exact h.buffer.due

/-! ### A poll iteration -/

/-- A state in which the call of a command may end: its `PHASE` is one of the command's, and the region it hands to the
collaborators, if any, is inside the buffer (42_acquire.md R184, 45_manchester.md R253). -/
structure MayEnd (i : Instr) (s : State) : Prop where
  phase : PhaseOk i s.phaseReg
  acq : i.acqFamily = true → s.acq.totalAccepted.toNat ≤ s.cap
  mfill : i = .mfill → s.idx.toNat ≤ s.cap

/-- A call of the ACQ family may end once the accepted samples are inside the buffer: its `PHASE` is not the stored
one. -/
theorem MayEnd.of_acq {i : Instr} {s : State} (hi : i.acqFamily = true) (h : s.acq.totalAccepted.toNat ≤ s.cap) :
    MayEnd i s :=
  have ⟨hl, hedge, hman⟩ := acqFamily_facts hi
  { phase := ⟨fun he => absurd he hedge, fun hm => absurd hm hman, fun hn => by simp [hl] at hn⟩
    acq := fun _ => h
    mfill := fun hm => absurd (.inl hm) hman }

/-- A legal state of a call may be its last. -/
theorem EngineInv.mayEnd {i : Instr} {s : State} (h : EngineInv i s) : MayEnd i s where
  phase := h.phaseOk
  acq := fun hi => (h.acq hi).accepted_le
  mfill := fun hi => (h.man (.inl hi)).1.idx_le.trans (h.man (.inl hi)).1.limit_le

/-- The commands of the ACQ family run the lines of the generic engine (43_frontend.md R206). -/
theorem iterate_of_acqFamily {i : Instr} (hi : i.acqFamily = true) (inp : Input) (s : State) :
    iterate i inp s = iterateAcquisition inp s := by
  cases i with
  | acq => rfl
  | readlf => rfl
  | reader => rfl
  | sniff => rfl
  | _ => cases hi

/-- An iteration of any looping command from a legal state faults nowhere, leads to a legal state where it goes on and
may end where it ends. -/
theorem iterate_sat {i : Instr} (inp : Input) {s : State} (he : EngineInv i s) (hb : BufferOk s.buf s.cap)
    (hper : 1 ≤ s.params.racePeriod.toNat) :
    (iterate i inp s).Sat (fun t => EngineInv i t ∧ BufferOk t.buf t.cap)
      (fun _ t => MayEnd i t ∧ BufferOk t.buf t.cap) := by
  have hend : ∀ (_ : Cause) (t : State), t = s → MayEnd i t ∧ BufferOk t.buf t.cap :=
    fun _ _ h => h ▸ ⟨he.mayEnd, hb⟩
  rcases looping_cases he.looping with hi | rfl | rfl | rfl
  · rw [iterate_of_acqFamily hi]
    exact sat_mono (iterateAcquisition_sat inp (he.acq hi) hb hper) (fun _ h => ⟨.of_acq hi h.1, h.2⟩)
      (fun _ _ h => ⟨.of_acq hi h.1, h.2⟩)
  · exact sat_mono (iterateEdge_sat inp (he.edge rfl) hb) (fun _ h => ⟨.of_edge h.1, h.2⟩) hend
  · exact sat_mono (iterateManchester_sat fillData_sat inp (he.man (.inl rfl)) hb)
      (fun _ h => ⟨.of_mfill h.1, h.2⟩) hend
  · exact sat_mono (iterateManchester_sat bitsData_sat inp (he.man (.inr rfl)) hb)
      (fun _ h => ⟨.of_mbits h.1, h.2⟩) hend

theorem terminatePost_postDue (s : State) : (terminatePost s).postDue =
    if opIs Instr.acqFamily s then some s.acq.totalAccepted
    else if opIs (fun i => decide (i = .mfill)) s then some s.idx else s.postDue := by
  unfold terminatePost
  (repeat' split) <;> rfl

/-- The region that becomes due when a call ends is inside the buffer. -/
theorem due_of_mayEnd {i : Instr} {s : State} (hop : s.op = i.opcode) (hm : MayEnd i s) (hd : s.postDue = none)
    (n : Word) (hn : (terminatePost s).postDue = some n) : n.toNat ≤ s.cap := by
  rw [terminatePost_postDue, opIs_of_op _ s i hop, opIs_of_op _ s i hop, hd] at hn
  split_ifs at hn with hacq hmfill
  · cases hn; exact hm.acq hacq
  · cases hn; exact hm.mfill (of_decide_eq_true hmfill)

/-- The terminating step of a call that may end leads to a legal idle state (60_exceptions.md R283). -/
theorem terminateCall_inv {i : Instr} (c : Cause) {s : State} (hop : s.op = i.opcode) (hm : MayEnd i s)
    (hb : BufferOk s.buf s.cap) (hd : s.postDue = none) (hpar : s.params.wf = true) (hcfg : ConfigInv s.cfg) :
    (terminateCall c s).Inv := by
  rw [terminateCall_eq]
  exact inv_of_idle (i := i) rfl hop hm.phase ⟨hb.wf, hb.within, due_of_mayEnd hop hm hd⟩ hpar hcfg

/-- A poll iteration of a call keeps legality. -/
theorem pollIteration_inv {w : BitVec 12} {s t : State} (h : s.Inv) (hb : s.busy = true)
    (ht : pollIteration w s = .next t) : t.Inv := by
  obtain ⟨i, u, hop, hu, hcase⟩ := pollIteration_cases hb ht
  have he := h.engine hb hop
  have hsat := iterate_sat (decodeInput w) he ⟨h.buffer.wf, h.buffer.within⟩ ((params_wf_iff _).1 h.params).2.2.2
  have hop' : u.op = i.opcode := hu.frame.op.trans hop
  have hdue : u.postDue = none := hu.frame.postDue.trans (h.sequencer.busy_not_due hb)
  have hpar : u.params.wf = true := hu.frame.params.symm ▸ h.params
  have hcfg : ConfigInv u.cfg := hu.frame.cfg.symm ▸ h.config
  have hgo : EngineInv i u ∧ BufferOk u.buf u.cap → u.Inv := fun ⟨he', hb'⟩ =>
    inv_of_call hop' (hu.frame.cause.trans (h.sequencer.busy_cause hb)) hdue hb' hpar hcfg he'
  rcases hcase with ⟨rfl, hit | hit⟩ | ⟨c, -, rfl, hit⟩
  · rw [hit] at hsat; exact hgo hsat
  · rw [hit] at hsat; exact hgo hsat
  · rw [hit] at hsat; exact terminateCall_inv c hop' hsat.1 hsat.2 hdue hpar hcfg

/-! ### The offset remover -/

/-- The offset remover writes inside the capacity and leaves nothing due. -/
theorem removeOffset_buffer {s : State} (h : BufferInv s) : BufferInv (removeOffset s) := by
  unfold removeOffset
  split
  · exact h
  · exact ⟨fillRegion_wf _ _ _ h.wf, fillRegion_within _ _ _ _ h.within (min_le_right _ _), nofun⟩

theorem removeOffset_inv {s : State} (h : s.Inv) : (removeOffset s).Inv := by
  have hbuf := removeOffset_buffer h.buffer
  rw [removeOffset_eq] at hbuf ⊢
  exact
    { sequencer := { h.sequencer with busy_not_due := fun _ => rfl }
      phase := { h.phase with }
      buffer := hbuf
      params := h.params
      config := h.config
      acq := fun hc => (h.acq hc).congr rfl rfl rfl rfl
      edge := fun hc => (h.edge hc).congr rfl rfl rfl rfl rfl
      man := fun hc => (h.man hc).congr rfl rfl rfl rfl rfl }

end Sys2Proof.Machine

open Sys2Proof Sys2Proof.Machine

/-- Settles O44, by the kinds of a step: host data is outside the invariant, an acceptance starts its engine legal, an
iteration keeps it or ends the call, and the offset remover stays inside the buffer. -/
theorem everyStepKeepsLegality : Obligations.EveryStepKeepsLegality := by
  intro s t h hstep
  cases step_cases hstep with
  | unchanged p d ht => exact ht ▸ h.with_hostData s.args s.ill s.rej p s.freeIndex d
  | argument n v rest x hn hp ht => exact ht ▸ h.with_hostData x s.ill s.rej rest s.freeIndex s.readData
  | illegal w rest e hp hd ht => exact ht ▸ h.with_hostData s.args true s.rej rest s.freeIndex s.readData
  | rejected w rest i hb hp hd ht => exact ht ▸ h.with_hostData s.args s.ill true rest s.freeIndex s.readData
  | accepted w rest i hb hp hd ht => exact ht ▸ acceptance_inv i h hb rest
  | polled w p n hb hp ht =>
    exact pollIteration_inv (h.with_hostData s.args s.ill s.rej p n s.readData) hb ht
  | removed rest hp ht =>
    exact ht ▸ removeOffset_inv (h.with_hostData s.args s.ill s.rej rest s.freeIndex s.readData)

end

section
/-! A call reads its latches only: whatever `ARG` and the configuration hold, each line of an iteration does the same
(10_state.md R23, R50). -/

namespace Sys2Proof.Machine

/-- The state with other operands and another configuration. -/
def State.withOperands (x : Args) (c : SamplingConfig) (s : State) : State := { s with args := x, cfg := c }

/-- The states of a flow, changed. -/
def Flow.map (g : State → State) : Flow → Flow
  | .pass t => .pass (g t)
  | .discard t => .discard (g t)
  | .terminate c t => .terminate c (g t)
  | .fault e => .fault e

/-- A line that does the same whatever the operands and the configuration hold. -/
def Blind (k : State → Flow) : Prop :=
  ∀ x c s, k (s.withOperands x c) = (k s).map (State.withOperands x c)

/-- The same for an access to the buffer. -/
def BlindAccess (k : State → Except Fault State) : Prop :=
  ∀ x c s, k (s.withOperands x c) = (k s).map (State.withOperands x c)

namespace Blind

theorem andThen {f k : State → Flow} (hf : Blind f) (hk : Blind k) : Blind fun s => (f s).andThen k := by
  intro x c s
  simp only [hf x c s]
  cases f s with
  | pass t => exact hk x c t
  | discard t => rfl
  | terminate d t => rfl
  | fault e => rfl

theorem ofAccess {k : State → Except Fault State} (hk : BlindAccess k) : Blind fun s => Flow.ofAccess (k s) := by
  intro x c s
  simp only [hk x c s]
  cases k s <;> rfl

/-- A choice on what the operands and the configuration have no part in. -/
theorem ite {p : State → Prop} [DecidablePred p] {f k : State → Flow} (hf : Blind f) (hk : Blind k)
    (hp : ∀ x c s, p (s.withOperands x c) = p s := by intros; rfl) : Blind fun s => if p s then f s else k s := by
  intro x c s
  by_cases h : p s
  · simp only [hp, h, if_true]; exact hf x c s
  · simp only [hp, h, if_false]; exact hk x c s

/-- A line after an update that leaves the operands and the configuration alone. -/
theorem comp {k : State → Flow} (hk : Blind k) {g : State → State}
    (hg : ∀ x c s, g (s.withOperands x c) = (g s).withOperands x c) : Blind fun s => k (g s) := by
  intro x c s
  simp only [hg x c s]
  exact hk x c (g s)

end Blind

/-! ### The generic engine -/

theorem raceCheck_blind (inp : Input) : Blind (raceCheck inp) :=
  .ite (p := fun s => s.acq.armed = true)
    (.ite (p := fun s => s.acq.raceCnt + 1#32 = s.params.racePeriod)
      (.ite (p := fun _ => inp.dataAvail = true) (fun _ _ _ => rfl) fun _ _ _ => rfl)
      fun _ _ _ => rfl)
    fun _ _ _ => rfl

theorem gate_blind (b : Byte) : Blind (gate b) :=
  .ite (p := fun s => s.acq.armed = true)
    (.ite (p := fun s => inBand s.lat.thr b = true)
      (.ite (p := fun s => s.lat.cancel = 0#32) (fun _ _ _ => rfl)
        (.ite (p := fun s => s.acq.cancelCnt + 1#32 = s.lat.cancel) (fun _ _ _ => rfl) fun _ _ _ => rfl))
      fun _ _ _ => rfl)
    fun _ _ _ => rfl

theorem skipSample_blind : Blind skipSample :=
  .ite (p := fun s => 0 < s.acq.skipLeft.toInt) (fun _ _ _ => rfl) fun _ _ _ => rfl

theorem memWrite_blind (a : Nat) (v : Byte) : BlindAccess fun s => memWrite s a v := by
  intro x c s
  simp only [memWrite, apply_ite (Except.map (State.withOperands x c))]
  rfl

theorem bpw_blind (bit : Bool) : BlindAccess (bpw bit) := by
  intro x c s
  by_cases h : s.bp.position.toNat / 8 < s.cap
  · rw [bpw_of_lt bit s h, bpw_of_lt bit (s.withOperands x c) h]; rfl
  · rw [bpw_of_ge bit s (Nat.le_of_not_lt h), bpw_of_ge bit (s.withOperands x c) (Nat.le_of_not_lt h)]; rfl

theorem bpwAll_blind (bits : List Bool) : BlindAccess (bpwAll bits) := by
  intro x c s
  induction bits generalizing s with
  | nil => rfl
  | cons bit bits ih =>
    simp only [bpwAll, bpw_blind bit x c s]
    cases bpw bit s with
    | error e => rfl
    | ok t => exact ih t

theorem storeSample_blind (v : Byte) : BlindAccess (storeSample v) := by
  intro x c s
  have hbyte := memWrite_blind s.acq.totalAccepted.toNat v x c s
  have hbits := bpwAll_blind (topBits v s.lat.bps.toNat) x c s
  by_cases h : s.lat.bps = 8#4
  · simp only [storeSample, storeByte, State.withOperands, h, if_true] at *
    rw [hbyte]
    cases memWrite s s.acq.totalAccepted.toNat v <;> rfl
  · simp only [storeSample, storeBits, State.withOperands, h, if_false] at *
    rw [hbits]
    cases bpwAll (topBits v s.lat.bps.toNat) s <;> rfl

theorem countBudget_blind : Blind countBudget :=
  .ite (p := fun s => s.acq.remainingBudget - 1#32 = 0#32) (fun _ _ _ => rfl) fun _ _ _ => rfl

theorem logValue_blind (v : Byte) : Blind (logValue v) :=
  (Blind.ofAccess (storeSample_blind v)).andThen countBudget_blind

theorem closeGroup_blind (b : Byte) : Blind (closeGroup b) := fun x c s =>
  logValue_blind _ x c { s with acq := { s.acq with runningSum := 0#40 } }

theorem decimate_blind (b : Byte) : Blind (decimate b) :=
  .ite (p := fun s => 1 < s.lat.dec.toNat)
    (.ite (p := fun s => (s.acq.decCounter + 1#32).toNat < s.lat.dec.toNat) (fun _ _ _ => rfl)
      ((closeGroup_blind b).comp fun _ _ _ => rfl))
    ((closeGroup_blind b).comp fun _ _ _ => rfl)

theorem processSample_blind (b : Byte) : Blind (processSample b) :=
  .ite (p := fun s => s.acq.remainingBudget = 0#32) (fun _ _ _ => rfl)
    (((gate_blind b).andThen skipSample_blind).andThen (decimate_blind b))

theorem kickAndProcess_blind (inp : Input) : Blind (kickAndProcess inp) := by
  unfold kickAndProcess
  exact .ite (p := fun _ => inp.rxReady = true)
    ((processSample_blind inp.sample).comp fun _ _ _ => rfl) (fun _ _ _ => rfl)

theorem iterateAcquisition_blind (inp : Input) : Blind (iterateAcquisition inp) :=
  .ite (p := fun _ => inp.abort = true) (fun _ _ _ => rfl)
    ((raceCheck_blind inp).andThen (kickAndProcess_blind inp))

/-! ### EDGE -/

theorem putByte_blind (v : Byte) : Blind (putByte v) := by
  intro x c s
  have hw := memWrite_blind s.idx.toNat v x c s
  simp only [putByte, show (s.withOperands x c).idx = s.idx from rfl] at *
  rw [hw]
  cases memWrite s s.idx.toNat v <;> rfl

theorem edgeSeekHigh_blind (b : Byte) : Blind (edgeSeekHigh b) :=
  .ite (p := fun _ => Config.edgeHi < b.toNat) (fun _ _ _ => rfl) fun _ _ _ => rfl

theorem edgeSeekLow_blind (b : Byte) : Blind (edgeSeekLow b) :=
  .ite (p := fun _ => b.toNat < Config.edgeLo) (fun _ _ _ => rfl) fun _ _ _ => rfl

theorem putTransition_blind (b : Byte) : Blind (putTransition b) :=
  .ite (p := fun s => s.idx.toNat < s.lat.limit.toNat) (putByte_blind b) (fun _ _ _ => rfl)

theorem edgePreCollect_blind (b : Byte) : Blind (edgePreCollect b) :=
  .ite (p := fun _ => Config.edgeLo + Config.edgeTol < b.toNat)
    (((show Blind fun s => putByte s.edge.lastSample s from fun x c s => putByte_blind _ x c s).andThen
      (putTransition_blind b)).andThen fun _ _ _ => rfl)
    (.ite (p := fun _ => b.toNat < Config.edgeLo) (fun _ _ _ => rfl) fun _ _ _ => rfl)

theorem edgeSample_blind (b : Byte) : Blind (edgeSample b) := by
  intro x c s
  simp only [edgeSample, show (s.withOperands x c).phaseReg = s.phaseReg from rfl]
  cases edgePhase s.phaseReg with
  | none => rfl
  | some p =>
    cases p with
    | seekSkip => exact edgeSeekHigh_blind b x c s
    | seekHigh => exact edgeSeekHigh_blind b x c s
    | seekLow => exact edgeSeekLow_blind b x c s
    | preCollect => exact edgePreCollect_blind b x c s
    | collecting => exact putByte_blind b x c s

theorem iterateEdge_blind (inp : Input) : Blind (iterateEdge inp) :=
  .ite (p := fun s => s.lat.limit.toNat ≤ s.idx.toNat) (fun _ _ _ => rfl) <|
  .ite (p := fun s => Config.edgeSkipMax ≤ s.edge.skipCnt.toNat) (fun _ _ _ => rfl) <|
  .ite (p := fun _ => inp.abort = true) (fun _ _ _ => rfl) <|
  .ite (p := fun _ => inp.rxReady = true)
    ((edgeSample_blind inp.sample).comp fun _ _ _ => rfl) (fun _ _ _ => rfl)

/-! ### MFILL and MBITS -/

theorem manSeekHigh_blind (b : Byte) : Blind (manSeekHigh b) :=
  .ite (p := fun _ => Config.manHi < b.toNat) (fun _ _ _ => rfl) fun _ _ _ => rfl

theorem manSeekLow_blind (b : Byte) : Blind (manSeekLow b) :=
  .ite (p := fun _ => b.toNat < Config.manLo) (fun _ _ _ => rfl) fun _ _ _ => rfl

theorem fillData_blind (b : Byte) : Blind (fillData b) := fun x c s =>
  ((putByte_blind (quantize 255#8 0#8 b s.man.hold)).andThen
    (k := fun t => .pass { t with man := { t.man with hold := quantize 255#8 0#8 b s.man.hold } })
    fun _ _ _ => rfl) x c s

theorem bitsData_blind (b : Byte) : Blind (bitsData b) := by
  refine .ite (p := fun s => (updateBit b s.man).period - 1#32 = 0#32) (Blind.andThen ?_ fun _ _ _ => rfl)
    fun _ _ _ => rfl
  exact fun x c s => putByte_blind (flagBit 8 (updateBit b s.man).curr) x c
    { s with man := { updateBit b s.man with period := (updateBit b s.man).period - 1#32 } }

theorem manSample_blind {data : Byte → State → Flow} (hd : ∀ b, Blind (data b)) (b : Byte) :
    Blind (manSample data b) := by
  intro x c s
  simp only [manSample, show (s.withOperands x c).phaseReg = s.phaseReg from rfl]
  cases manPhase s.phaseReg with
  | none => rfl
  | some p =>
    cases p with
    | seekHigh => exact manSeekHigh_blind b x c s
    | seekLow => exact manSeekLow_blind b x c s
    | data => exact hd b x c s

theorem iterateManchester_blind {data : Byte → State → Flow} (hd : ∀ b, Blind (data b)) (inp : Input) :
    Blind (iterateManchester data inp) :=
  .ite (p := fun s => s.lat.limit.toNat ≤ s.idx.toNat) (fun _ _ _ => rfl) <|
  .ite (p := fun s => Config.noiseMax < s.man.noiseCnt.toNat) (fun _ _ _ => rfl) <|
  .ite (p := fun _ => inp.abort = true) (fun _ _ _ => rfl) <|
  .ite (p := fun _ => inp.rxReady = true)
    ((manSample_blind hd inp.sample).comp fun _ _ _ => rfl) (fun _ _ _ => rfl)

/-! ### A whole iteration -/

theorem iterate_blind (i : Instr) (inp : Input) : Blind (iterate i inp) := by
  cases i with
  | acq => exact iterateAcquisition_blind inp
  | readlf => exact iterateAcquisition_blind inp
  | reader => exact iterateAcquisition_blind inp
  | sniff => exact iterateAcquisition_blind inp
  | edge => exact iterateEdge_blind inp
  | mfill => exact iterateManchester_blind fillData_blind inp
  | mbits => exact iterateManchester_blind bitsData_blind inp
  | cfgmerge => exact fun _ _ _ => rfl
  | cfgrd => exact fun _ _ _ => rfl
  | arm => exact fun _ _ _ => rfl

/-- The outcome of an iteration whose state the operands and the configuration are changed in. -/
def outcomeWithOperands (x : Args) (c : SamplingConfig) :
    Host.Outcome State Fault Refusal → Host.Outcome State Fault Refusal
  | .next t => .next (t.withOperands x c)
  | .fault e => .fault e
  | .refused r => .refused r

/-- The terminating step reads neither the operands nor the configuration. -/
theorem terminateCall_withOperands (d : Cause) (x : Args) (c : SamplingConfig) (s : State) :
    terminateCall d (s.withOperands x c) = (terminateCall d s).withOperands x c := by
  have hpost : terminatePost (s.withOperands x c) = (terminatePost s).withOperands x c := by
    simp only [terminatePost, apply_ite (State.withOperands x c)]
    rfl
  have hfront : ∀ t : State, terminateFrontEnd (t.withOperands x c) = (terminateFrontEnd t).withOperands x c := by
    intro t
    simp only [terminateFrontEnd, apply_ite (State.withOperands x c)]
    rfl
  simp only [terminateCall, hpost, hfront]
  rfl

theorem finish_map_withOperands (x : Args) (c : SamplingConfig) (f : Flow) :
    (f.map (State.withOperands x c)).finish = outcomeWithOperands x c f.finish := by
  cases f with
  | terminate d s => exact congrArg Host.Outcome.next (terminateCall_withOperands d x c s)
  | _ => rfl

/-- A poll iteration does the same whatever the operands and the configuration hold. -/
theorem pollIteration_withOperands (w : BitVec 12) (x : Args) (c : SamplingConfig) (s : State) :
    pollIteration w (s.withOperands x c) = outcomeWithOperands x c (pollIteration w s) := by
  cases hb : s.busy with
  | false =>
    rw [pollIteration_of_idle w s hb, pollIteration_of_idle w (s.withOperands x c) hb]
    rfl
  | true =>
    cases hi : decodeOpcode s.op with
    | none => simp [pollIteration, State.withOperands, hb, hi, outcomeWithOperands]
    | some i =>
      have hop := opcode_of_decodeOpcode s.op i hi
      rw [pollIteration_of_op w s i hb hop, pollIteration_of_op w (s.withOperands x c) i hb hop, runEngine_eq_finish,
        runEngine_eq_finish, iterate_blind, finish_map_withOperands]

/-- A poll iteration leaves the operands and the configuration alone. -/
theorem pollIteration_keeps_operands {w : BitVec 12} {s t : State} (h : pollIteration w s = .next t) :
    t.args = s.args ∧ t.cfg = s.cfg := by
  have hw := pollIteration_withOperands w s.args s.cfg s
  rw [show s.withOperands s.args s.cfg = s from rfl, h] at hw
  have ht : t = t.withOperands s.args s.cfg := Host.Outcome.next.inj hw
  exact ⟨(congrArg State.args ht :), (congrArg State.cfg ht :)⟩

end Sys2Proof.Machine

open Sys2Proof Sys2Proof.Machine

/-- Settles O47: every line is blind to the operands and the configuration, so the outcome differs in them alone. -/
theorem callReadsItsLatchesOnly : Obligations.CallReadsItsLatchesOnly := by
  intro s w x c
  have hw := pollIteration_withOperands w x c s
  refine ⟨fun t h => ?_, fun e h => ?_⟩
  · obtain ⟨hargs, hcfg⟩ := pollIteration_keeps_operands h
    rw [h] at hw
    exact ⟨hargs, hcfg, hw⟩
  · rw [h] at hw
    exact hw

end

section
/-! The host's byte read, and that a step from a legal state goes through but for a host read of a byte that does not
exist (20_memory.md R77, R78, R83). -/

namespace Sys2Proof.Machine

/-! ### The host's byte read -/

theorem hostReadByte_of_lt {a : Nat} {s : State} (h : a < s.cap) :
    hostReadByte a s = .next { s with readData := (s.buf.read a).setWidth 32 } := by
  simp [hostReadByte, h]

theorem hostReadByte_of_ge {a : Nat} {s : State} (h : s.cap ≤ a) : hostReadByte a s = .fault .hostReadOutside := by
  simp [hostReadByte, Nat.not_lt.mpr h]

/-! ### What goes through -/

/-- Every word written to `CMD` has its effect: the flag `ILL`, the flag `REJ`, or an acceptance (30_encoding.md R101). -/
theorem writeCommand_isNext (w : Word) (s : State) : ∃ t, writeCommand w s = .next t := by
  unfold writeCommand
  split
  · rename_i i _
    rw [exec_eq_accept]
    cases hb : s.busy with
    | true => exact ⟨_, acceptWhenIdle_busy i _ s hb⟩
    | false => exact ⟨_, acceptWhenIdle_idle i _ s hb⟩
  · exact ⟨_, rfl⟩

theorem hostWrite_isNext (n : Nat) (v : Word) (s : State) : ∃ t, hostWrite n v s = .next t := by
  rcases eq_or_ne n 0 with rfl | hn
  · exact writeCommand_isNext v s
  · rcases hostWrite_of_ne_zero n v s hn with ⟨_, -, h⟩ | ⟨-, h⟩ <;> exact ⟨_, h⟩

/-- A poll iteration from a legal state meets an engine, and none of its lines faults. -/
theorem pollIteration_isNext (w : BitVec 12) {s : State} (h : s.Inv) : ∃ t, pollIteration w s = .next t := by
  cases hb : s.busy with
  | false => exact ⟨s, pollIteration_of_idle w s hb⟩
  | true =>
    obtain ⟨i, hi, -⟩ := (opIs_iff Instr.looping s).1 (h.sequencer.busy_looping hb)
    have hop := opcode_of_decodeOpcode s.op i hi
    obtain ⟨-, -, -, hper⟩ := (params_wf_iff _).1 h.params
    obtain ⟨t, ht, -⟩ :=
      finish_of_sat (iterate_sat (decodeInput w) (h.engine hb hop) ⟨h.buffer.wf, h.buffer.within⟩ hper)
    exact ⟨t, by rw [pollIteration_of_op w s i hb hop, runEngine_eq_finish, ht]⟩

theorem freePoll_isNext {s : State} (h : s.Inv) : ∃ t, freePoll s = .next t := by
  cases hb : s.busy with
  | false => exact ⟨s, freePoll_of_idle s hb⟩
  | true =>
    rw [freePoll_of_busy s hb]
    exact pollIteration_isNext _ (h.with_hostData s.args s.ill s.rej s.pending (s.freeIndex + 1) s.readData)

end Sys2Proof.Machine

open Sys2Proof Sys2Proof.Machine

/-- Settles O12: the byte read tests the offset against `CAP`, then copies the byte. -/
theorem hostReadsABufferByte : Obligations.HostReadsABufferByte := by
  intro s a rest hp
  rw [step_of_pending_cons s _ rest hp]
  exact ⟨fun h => ⟨_, BitVec.toNat_setWidth_of_le (by decide), hostReadByte_of_lt h⟩, fun h => hostReadByte_of_ge h⟩

/-- Settles O45, by the environment's next move: only a host read of a byte can fault. -/
theorem noStepOverrunsTheBuffer : Obligations.NoStepOverrunsTheBuffer := by
  intro s h
  cases hp : s.pending with
  | nil => rw [step_of_pending_nil s hp]; exact .inl (freePoll_isNext h)
  | cons m rest =>
    rw [step_of_pending_cons s m rest hp]
    cases m with
    | read n => exact .inl ⟨_, rfl⟩
    | write n v => exact .inl (hostWrite_isNext n v _)
    | readByte a =>
      rcases Nat.lt_or_ge a s.cap with ha | ha
      · exact .inl ⟨_, hostReadByte_of_lt ha⟩
      · exact .inr ⟨a, rest, rfl, ha, hostReadByte_of_ge ha⟩
    | poll w =>
      exact .inl (pollIteration_isNext w (h.with_hostData s.args s.ill s.rej rest s.freeIndex s.readData))
    | removeOffset => exact .inl ⟨_, rfl⟩

end

section
/-! What a poll iteration leaves alone: the registers of the other engines, and every byte of the buffer outside those its
engine may write (20_memory.md R80, R84; 10_state.md R23). -/

namespace Sys2Proof.Machine

namespace CallFrame

variable {s t : State}

theorem lat (h : CallFrame s t) : t.lat = s.lat := (congrArg State.lat h :)
theorem pending (h : CallFrame s t) : t.pending = s.pending := (congrArg State.pending h :)
theorem readData (h : CallFrame s t) : t.readData = s.readData := (congrArg State.readData h :)
theorem freeIndex (h : CallFrame s t) : t.freeIndex = s.freeIndex := (congrArg State.freeIndex h :)

end CallFrame

/-- No two commands share an opcode (30_encoding.md R104). -/
theorem opcode_injective {i j : Instr} (h : i.opcode = j.opcode) : i = j :=
  Option.some.inj (by rw [← decodeOpcode_opcode i, h, decodeOpcode_opcode])

/-! ### Bytes outside a range -/

/-- The buffers read alike at every offset outside `[lo, hi)`. -/
def Memory.SameOutside (lo hi : Nat) (m n : Memory) : Prop := ∀ a, a < lo ∨ hi ≤ a → n.read a = m.read a

theorem Memory.SameOutside.refl (lo hi : Nat) (m : Memory) : m.SameOutside lo hi m := fun _ _ => rfl

theorem Memory.SameOutside.trans {lo hi : Nat} {l m n : Memory} (h₁ : l.SameOutside lo hi m)
    (h₂ : m.SameOutside lo hi n) : l.SameOutside lo hi n :=
  fun a ha => (h₂ a ha).trans (h₁ a ha)

/-- A write inside the range. -/
theorem Memory.sameOutside_write {lo hi a : Nat} {m : Memory} (hwf : m.wf = true) (hlo : lo ≤ a) (hhi : a < hi)
    (v : Byte) : m.SameOutside lo hi (m.write a v) :=
  fun b hb => m.read_write_other a b v hwf (by omega)

/-! ### Flows that keep to a relation -/

/-- Every state the flow answers with meets `P`. -/
def Flow.Answers (P : State → Prop) : Flow → Prop
  | .pass t => P t
  | .discard t => P t
  | .terminate _ t => P t
  | .fault _ => True

theorem Flow.Answers.mono {P Q : State → Prop} {f : Flow} (h : f.Answers P) (hPQ : ∀ t, P t → Q t) : f.Answers Q := by
  cases f with
  | pass t => exact hPQ t h
  | discard t => exact hPQ t h
  | terminate c t => exact hPQ t h
  | fault e => trivial

/-- Lines in sequence answer with `P` when the later ones keep it. -/
theorem Flow.Answers.andThen {P : State → Prop} {f : Flow} {k : State → Flow} (hf : f.Answers P)
    (hk : ∀ t, P t → (k t).Answers P) : (f.andThen k).Answers P := by
  cases f with
  | pass t => exact hk t hf
  | discard t => exact hf
  | terminate c t => exact hf
  | fault e => trivial

/-! ### The ACQ family -/

/-- The end, rounded up to a whole byte, of a value stored at the bit cursor. -/
def storeEnd (s : State) : Nat := (s.bp.position.toNat + s.lat.bps.toNat + 7) / 8

/-- What an iteration of the ACQ family leaves alone: the registers of the other engines, and every byte but those one
value stored at the bit cursor reaches. -/
structure AcqFrame (s t : State) : Prop where
  idx : t.idx = s.idx
  edge : t.edge = s.edge
  man : t.man = s.man
  phaseReg : t.phaseReg = s.phaseReg
  buf : s.buf.SameOutside (s.bp.position.toNat / 8) (storeEnd s) t.buf

theorem AcqFrame.refl (s : State) : AcqFrame s s := ⟨rfl, rfl, rfl, rfl, .refl _ _ _⟩

/-- Either path of LOG's store writes at the bit cursor only (42_acquire.md R180, R181). -/
theorem storeSample_frame (v : Byte) {s t : State} (hi : AcqInv s) (hb : BufferOk s.buf s.cap)
    (hl : s.acq.remainingBudget ≠ 0#32) (h : storeSample v s = .ok t) : AcqFrame s t := by
  have hpos : s.bp.position.toNat = s.acq.totalAccepted.toNat * s.lat.bps.toNat := by rw [hi.cursor, hi.bits]
  have hend : storeEnd s = (s.bp.position.toNat + s.lat.bps.toNat + 7) / 8 := rfl
  have hfit : (s.acq.totalAccepted.toNat + 1) * s.lat.bps.toNat ≤ s.cap * 8 :=
    Nat.mul_le_mul (hi.accepted_succ hl ▸ hi.logged_le hl) hi.bps_le
  rw [Nat.add_mul, ← hpos] at hfit
  have hcap := cap_lt s
  unfold storeSample at h
  split at h
  · rename_i h8
    have hbps : s.lat.bps.toNat = 8 := by rw [h8]; rfl
    rw [hbps] at hpos hend
    have hlt : s.acq.totalAccepted.toNat < s.cap := by omega
    rw [storeByte, memWrite_of_lt s _ _ hlt] at h
    cases h
    exact ⟨rfl, rfl, rfl, rfl, Memory.sameOutside_write hb.wf (by omega) (by omega) v⟩
  · obtain ⟨m, -, -, hm, hall⟩ :=
      bpwAll_of_fits (topBits v s.lat.bps.toNat) s hb.wf hb.within (by simp; omega) (by simp; omega)
    rw [topBits_length] at hm
    rw [storeBits, hall] at h
    cases h
    exact ⟨rfl, rfl, rfl, rfl, hm⟩

theorem logValue_frame (v : Byte) {s : State} (hi : AcqInv s) (hb : BufferOk s.buf s.cap)
    (hl : s.acq.remainingBudget ≠ 0#32) : (logValue v s).Answers (AcqFrame s) := by
  unfold logValue
  cases hs : storeSample v s with
  | error e => trivial
  | ok t =>
    have hf := storeSample_frame v hi hb hl hs
    rw [ofAccess_ok, andThen_pass]
    unfold countBudget
    simp only []
    split <;> exact { hf with }

theorem decimate_frame (x : Byte) {s : State} (hi : AcqInv s) (hb : BufferOk s.buf s.cap)
    (hl : s.acq.remainingBudget ≠ 0#32) : (decimate x s).Answers (AcqFrame s) := by
  rcases decimate_cases_of_inv x hi with ⟨-, h⟩ | ⟨v, h⟩
  · rw [h]; exact ⟨rfl, rfl, rfl, rfl, .refl _ _ _⟩
  · rw [h]; exact (logValue_frame v hi.clearGroup hb hl).mono fun _ hf => { hf with }

theorem processSample_frame (x : Byte) {s : State} (hi : AcqInv s) (hb : BufferOk s.buf s.cap) :
    (processSample x s).Answers (AcqFrame s) := by
  unfold processSample
  split
  · exact .refl s
  · rename_i hl
    rcases gate_cases_of_inv x hi with h | ⟨n, h | ⟨-, h⟩⟩
    · rw [h, andThen_pass]
      rcases skipSample_cases { s with acq := { s.acq with armed := false } } with ⟨-, h'⟩ | ⟨-, h'⟩
      · rw [h', andThen_discard]; exact ⟨rfl, rfl, rfl, rfl, .refl _ _ _⟩
      · rw [h', andThen_pass]; exact (decimate_frame x hi.fire hb hl).mono fun _ hf => { hf with }
    · rw [h]; exact ⟨rfl, rfl, rfl, rfl, .refl _ _ _⟩
    · rw [h]; exact ⟨rfl, rfl, rfl, rfl, .refl _ _ _⟩

theorem kickAndProcess_frame (inp : Input) {s : State} (hi : AcqInv s) (hb : BufferOk s.buf s.cap) :
    (kickAndProcess inp s).Answers (AcqFrame s) := by
  cases hr : inp.rxReady with
  | true =>
    rw [kickAndProcess_of_ready inp s hr]
    exact (processSample_frame inp.sample (s := (s.emit .wdtKick).consumeSample) (hi.congr rfl rfl rfl rfl) hb).mono
      fun _ hf => { hf with }
  | false => rw [kickAndProcess_of_not_ready inp s hr]; exact ⟨rfl, rfl, rfl, rfl, .refl _ _ _⟩

theorem iterateAcquisition_frame (inp : Input) {s : State} (hi : AcqInv s) (hb : BufferOk s.buf s.cap)
    (hp : 1 ≤ s.params.racePeriod.toNat) : (iterateAcquisition inp s).Answers (AcqFrame s) := by
  unfold iterateAcquisition
  split
  · exact .refl s
  · obtain ⟨n, h | ⟨hn, h⟩⟩ := raceCheck_cases_of_inv inp hi hp
    · rw [h]; exact ⟨rfl, rfl, rfl, rfl, .refl _ _ _⟩
    · rw [h, andThen_pass]
      exact (kickAndProcess_frame inp (hi.with_raceCnt hn) hb).mono fun _ hf => { hf with }

/-! ### EDGE -/

/-- What an iteration of EDGE leaves alone: the registers of the other engines, and every byte but those at `idx` and one
further. -/
structure EdgeFrame (s t : State) : Prop where
  acq : t.acq = s.acq
  bp : t.bp = s.bp
  man : t.man = s.man
  buf : s.buf.SameOutside s.idx.toNat (s.idx.toNat + 2) t.buf

theorem EdgeFrame.refl (s : State) : EdgeFrame s s := ⟨rfl, rfl, rfl, .refl _ _ _⟩

theorem edgeSeekHigh_frame (x : Byte) (s : State) : (edgeSeekHigh x s).Answers (EdgeFrame s) := by
  unfold edgeSeekHigh
  split <;> exact ⟨rfl, rfl, rfl, .refl _ _ _⟩

theorem edgeSeekLow_frame (x : Byte) (s : State) : (edgeSeekLow x s).Answers (EdgeFrame s) := by
  unfold edgeSeekLow
  split <;> exact ⟨rfl, rfl, rfl, .refl _ _ _⟩

/-- The transition writes at `idx` and, where the limit leaves room, one further (44_edge_capture.md R227). -/
theorem transition_frame (v x : Byte) {s : State} (hwf : s.buf.wf = true) (hlt : s.idx.toNat < s.lat.limit.toNat) :
    ((putByte v s).andThen (putTransition x)).Answers (EdgeFrame s) := by
  have hfirst : s.buf.SameOutside s.idx.toNat (s.idx.toNat + 2) (s.buf.write s.idx.toNat v) :=
    Memory.sameOutside_write hwf le_rfl (by omega) v
  have hsecond := Memory.sameOutside_write (lo := s.idx.toNat) (hi := s.idx.toNat + 2) (a := (s.idx + 1#32).toNat)
    (s.buf.write_wf s.idx.toNat v hwf) (by rw [toNat_succ_of_lt hlt]; omega) (by rw [toNat_succ_of_lt hlt]; omega) x
  rcases putByte_cases v s with h | h
  · rw [h, andThen_pass]
    unfold putTransition
    split
    · rcases putByte_cases x { s with buf := s.buf.write s.idx.toNat v, idx := s.idx + 1#32 } with h' | h'
      · rw [h']; exact ⟨rfl, rfl, rfl, hfirst.trans hsecond⟩
      · rw [h']; trivial
    · exact ⟨rfl, rfl, rfl, hfirst⟩
  · rw [h]; trivial

theorem edgePreCollect_frame (x : Byte) {s : State} (hwf : s.buf.wf = true) (hlt : s.idx.toNat < s.lat.limit.toNat) :
    (edgePreCollect x s).Answers (EdgeFrame s) := by
  unfold edgePreCollect
  split
  · have ht := transition_frame s.edge.lastSample x hwf hlt
    exact ht.andThen fun u hu => { hu with }
  · simp only []
    split <;> exact ⟨rfl, rfl, rfl, .refl _ _ _⟩

theorem edgeCollect_frame (x : Byte) {s : State} (hwf : s.buf.wf = true) : (edgeCollect x s).Answers (EdgeFrame s) := by
  unfold edgeCollect
  rcases putByte_cases x s with h | h
  · rw [h]; exact ⟨rfl, rfl, rfl, Memory.sameOutside_write hwf le_rfl (by omega) x⟩
  · rw [h]; trivial

theorem edgeSample_frame (x : Byte) {s : State} (hwf : s.buf.wf = true) (hlt : s.idx.toNat < s.lat.limit.toNat) :
    (edgeSample x s).Answers (EdgeFrame s) := by
  unfold edgeSample
  split
  · exact edgeSeekHigh_frame x s
  · exact edgeSeekHigh_frame x s
  · exact edgeSeekLow_frame x s
  · exact edgePreCollect_frame x hwf hlt
  · exact edgeCollect_frame x hwf
  · trivial

theorem iterateEdge_frame (inp : Input) {s : State} (hwf : s.buf.wf = true) :
    (iterateEdge inp s).Answers (EdgeFrame s) := by
  unfold iterateEdge
  split
  · exact .refl s
  split
  · exact .refl s
  split
  · exact .refl s
  rename_i hlim _ _
  simp only []
  split
  · exact (edgeSample_frame inp.sample (s := (s.emit .wdtKick).consumeSample) hwf (Nat.lt_of_not_le hlim)).mono
      fun _ hf => { hf with }
  · exact ⟨rfl, rfl, rfl, .refl _ _ _⟩

/-! ### MFILL and MBITS -/

/-- What an iteration of MFILL or MBITS leaves alone: the registers of the other engines, and every byte but the one at
`idx`. -/
structure ManFrame (s t : State) : Prop where
  acq : t.acq = s.acq
  bp : t.bp = s.bp
  edge : t.edge = s.edge
  buf : s.buf.SameOutside s.idx.toNat (s.idx.toNat + 1) t.buf

theorem ManFrame.refl (s : State) : ManFrame s s := ⟨rfl, rfl, rfl, .refl _ _ _⟩

theorem fillData_frame (x : Byte) (s : State) (hwf : s.buf.wf = true) : (fillData x s).Answers (ManFrame s) := by
  unfold fillData
  simp only []
  rcases putByte_cases (quantize 255#8 0#8 x s.man.hold) s with h | h
  · rw [h]; exact ⟨rfl, rfl, rfl, Memory.sameOutside_write hwf le_rfl (by omega) _⟩
  · rw [h]; trivial

theorem bitsData_frame (x : Byte) (s : State) (hwf : s.buf.wf = true) : (bitsData x s).Answers (ManFrame s) := by
  unfold bitsData
  simp only []
  split
  · rcases putByte_cases (flagBit 8 (updateBit x s.man).curr)
        { s with man := { updateBit x s.man with period := (updateBit x s.man).period - 1#32 } } with h | h
    · rw [h]; exact ⟨rfl, rfl, rfl, Memory.sameOutside_write hwf le_rfl (by omega) _⟩
    · rw [h]; trivial
  · exact ⟨rfl, rfl, rfl, .refl _ _ _⟩

theorem manSample_frame {data : Byte → State → Flow}
    (hd : ∀ x s, s.buf.wf = true → (data x s).Answers (ManFrame s)) (x : Byte) {s : State} (hwf : s.buf.wf = true) :
    (manSample data x s).Answers (ManFrame s) := by
  unfold manSample
  split
  · unfold manSeekHigh; split <;> exact ⟨rfl, rfl, rfl, .refl _ _ _⟩
  · unfold manSeekLow; split <;> exact ⟨rfl, rfl, rfl, .refl _ _ _⟩
  · exact hd x s hwf
  · trivial

theorem iterateManchester_frame {data : Byte → State → Flow}
    (hd : ∀ x s, s.buf.wf = true → (data x s).Answers (ManFrame s)) (inp : Input) {s : State}
    (hwf : s.buf.wf = true) : (iterateManchester data inp s).Answers (ManFrame s) := by
  unfold iterateManchester
  split
  · exact .refl s
  split
  · exact .refl s
  split
  · exact .refl s
  simp only []
  split
  · exact (manSample_frame hd inp.sample (s := (s.emit .wdtKick).consumeSample) hwf).mono fun _ hf => { hf with }
  · exact ⟨rfl, rfl, rfl, .refl _ _ _⟩

/-! ### A whole iteration -/

/-- The frame of the engine of a command. -/
structure EngineFrame (i : Instr) (s t : State) : Prop where
  acq : i.acqFamily = true → AcqFrame s t
  edge : i = .edge → EdgeFrame s t
  man : i = .mfill ∨ i = .mbits → ManFrame s t

theorem iterate_frame {i : Instr} (inp : Input) {s : State} (he : EngineInv i s) (hb : BufferOk s.buf s.cap)
    (hper : 1 ≤ s.params.racePeriod.toNat) : (iterate i inp s).Answers (EngineFrame i s) := by
  rcases looping_cases he.looping with hi | rfl | rfl | rfl
  · obtain ⟨-, hedge, hman⟩ := acqFamily_facts hi
    rw [iterate_of_acqFamily hi]
    exact (iterateAcquisition_frame inp (he.acq hi) hb hper).mono
      fun _ h => ⟨fun _ => h, fun h' => absurd h' hedge, fun h' => absurd h' hman⟩
  · exact (iterateEdge_frame inp hb.wf).mono fun _ h => ⟨nofun, fun _ => h, nofun⟩
  · exact (iterateManchester_frame fillData_frame inp hb.wf).mono fun _ h => ⟨nofun, nofun, fun _ => h⟩
  · exact (iterateManchester_frame bitsData_frame inp hb.wf).mono fun _ h => ⟨nofun, nofun, fun _ => h⟩

/-- A poll iteration of a call from a legal state leads, through its lines, to a state that keeps the frame of the call and
of its engine; the terminating step, if it comes, adds to that `BUSY`, `CAUSE`, `RESULT`, events and the region due. -/
theorem pollIteration_frame {w : BitVec 12} {s t : State} (h : s.Inv) (hb : s.busy = true)
    (ht : pollIteration w s = .next t) :
    ∃ i u, s.op = i.opcode ∧ CallFrame s u ∧ EngineFrame i s u ∧
      t = { u with busy := t.busy, cause := t.cause, result := t.result, trace := t.trace, postDue := t.postDue } := by
  obtain ⟨i, u, hop, hu, hcase⟩ := pollIteration_cases hb ht
  obtain ⟨-, -, -, hper⟩ := (params_wf_iff _).1 h.params
  have hf := iterate_frame (decodeInput w) (h.engine hb hop) ⟨h.buffer.wf, h.buffer.within⟩ hper
  refine ⟨i, u, hop, hu.frame, ?_⟩
  rcases hcase with ⟨rfl, hit | hit⟩ | ⟨c, -, rfl, hit⟩
  · rw [hit] at hf; exact ⟨hf, rfl⟩
  · rw [hit] at hf; exact ⟨hf, rfl⟩
  · rw [hit] at hf; exact ⟨hf, by rw [terminateCall_eq]⟩

end Sys2Proof.Machine

open Sys2Proof Sys2Proof.Machine

/-- Settles O50: the host's part by the frame of a call, the other registers and the bytes by the frame of the engine that
`OP` names. -/
theorem frameOfAPollIteration : Obligations.FrameOfAPollIteration := by
  intro s t w h hb ht
  obtain ⟨i, u, hop, hcall, hengine, htu⟩ := pollIteration_frame h hb ht
  rw [htu]
  refine ⟨hcall.op, hcall.ill, hcall.rej, hcall.args, hcall.cfg, hcall.lat, hcall.params, hcall.pending,
    hcall.readData, hcall.freeIndex, fun hacq => ?acq, fun hedge => ?edge, fun hman => ?man⟩
  case acq =>
    have hf := hengine.acq ((opIs_of_op _ s i hop).symm.trans hacq)
    exact ⟨hf.idx, hf.edge, hf.man, hf.phaseReg, hf.buf⟩
  case edge =>
    have hf := hengine.edge (opcode_injective (hop.symm.trans hedge))
    exact ⟨hf.acq, hf.bp, hf.man, hf.buf⟩
  case man =>
    have hf := hengine.man (hman.imp (fun ho => opcode_injective (hop.symm.trans ho))
      fun ho => opcode_injective (hop.symm.trans ho))
    exact ⟨hf.acq, hf.bp, hf.edge, fun a ha => hf.buf a (by omega)⟩

end

section
/-! Command words and input words: decoding against the fields of the word (30_encoding.md R103, R104, R112, R116), and
the obligations about the two encodings. -/

namespace Sys2Proof

open Sys2Proof.Machine

/-! ### Command words -/

@[simp] theorem opcodeField_encode (i : Instr) : opcodeField (encode i) = i.opcode := BitVec.extractLsb'_append_eq_right

@[simp] theorem zeroField_encode (i : Instr) : zeroField (encode i) = 0#24 := BitVec.extractLsb'_append_eq_left

theorem zeroField_eq_zero_iff (w : Word) : zeroField w = 0#24 ↔ w.toNat < 2 ^ 8 := by
  rw [← BitVec.toNat_inj, zeroField, BitVec.extractLsb'_toNat, Nat.shiftRight_eq_div_pow, BitVec.toNat_ofNat]
  omega

theorem opcodeField_toNat_of_lt {w : Word} (h : w.toNat < 2 ^ 8) : (opcodeField w).toNat = w.toNat := by
  rw [opcodeField, BitVec.extractLsb'_toNat, Nat.shiftRight_zero, Nat.mod_eq_of_lt h]

/-- An opcode is reserved when no row of the opcode map has its number (30_encoding.md R104). -/
theorem decodeOpcode_eq_none_iff (op : BitVec 8) :
    decodeOpcode op = none ↔ op.toNat ∉ opcodeMap.map fun row => row.1.toNat := by
  simp only [decodeOpcode, Option.map_eq_none_iff, List.find?_eq_none, List.mem_map, not_exists, not_and, beq_iff_eq,
    BitVec.toNat_inj]

theorem decode_of_ge {w : Word} (h : 2 ^ 8 ≤ w.toNat) : decode w = .error .nonZeroUpper :=
  if_neg (mt (zeroField_eq_zero_iff w).1 (Nat.not_lt.2 h))

theorem decode_of_named {w : Word} {i : Instr} (hz : zeroField w = 0#24) (h : decodeOpcode (opcodeField w) = some i) :
    decode w = .ok i := by
  simp [decode, hz, h]

theorem decode_of_reserved {w : Word} (hz : zeroField w = 0#24) (h : decodeOpcode (opcodeField w) = none) :
    decode w = .error .reservedOpcode := by
  simp [decode, hz, h]

/-- Each of the three answers of the decoder, with the words it is given for: a non-zero `zero` field, a reserved opcode
or a command's opcode under a zero field (30_encoding.md R101, R116). -/
theorem decode_cases (w : Word) :
    (2 ^ 8 ≤ w.toNat ∧ decode w = .error .nonZeroUpper) ∨
    (w.toNat < 2 ^ 8 ∧ w.toNat ∉ opcodeMap.map (fun row => row.1.toNat) ∧ decode w = .error .reservedOpcode) ∨
    (w.toNat < 2 ^ 8 ∧ w.toNat ∈ opcodeMap.map (fun row => row.1.toNat) ∧ ∃ i, decode w = .ok i) := by
  rcases Nat.lt_or_ge w.toNat (2 ^ 8) with hlt | hge
  · have hz := (zeroField_eq_zero_iff w).2 hlt
    have hnone := decodeOpcode_eq_none_iff (opcodeField w)
    rw [opcodeField_toNat_of_lt hlt] at hnone
    cases ho : decodeOpcode (opcodeField w) with
    | none => exact .inr (.inl ⟨hlt, hnone.1 ho, decode_of_reserved hz ho⟩)
    | some i =>
      exact .inr (.inr ⟨hlt, not_not.1 (mt hnone.2 (by simp [ho])), i, decode_of_named hz ho⟩)
  · exact .inl ⟨hge, decode_of_ge hge⟩

@[simp] theorem decode_encode (i : Instr) : decode (encode i) = .ok i :=
  decode_of_named (zeroField_encode i) (by rw [opcodeField_encode, decodeOpcode_opcode])

/-- A word that is no row's word is illegal, for one reason or the other. -/
theorem decode_error_of_not_mem {w : Word} (h : w.toNat ∉ opcodeMap.map fun row => row.1.toNat) :
    ∃ e, decode w = .error e := by
  rcases decode_cases w with ⟨-, hd⟩ | ⟨-, -, hd⟩ | ⟨-, hmem, -⟩
  · exact ⟨_, hd⟩
  · exact ⟨_, hd⟩
  · exact absurd hmem h

/-! ### Input words -/

/-- A flag of a word is its one-bit field. -/
theorem flagBit_getLsbD {n : Nat} (w : BitVec n) (k : Nat) : flagBit 1 (w.getLsbD k) = w.extractLsb' k 1 := by
  ext j hj
  obtain rfl : j = 0 := by omega
  cases h : w.getLsbD k <;> simp [flagBit, h]

/-- The fields of an input word, put together again, are the word (30_encoding.md R112). -/
theorem encodeInput_decodeInput (w : BitVec 12) : encodeInput (decodeInput w) = w := by
  simp only [encodeInput, decodeInput, flagBit_getLsbD]
  rw [BitVec.extractLsb'_append_extractLsb'_eq_extractLsb' (by rfl),
    BitVec.extractLsb'_append_extractLsb'_eq_extractLsb' (by rfl),
    BitVec.extractLsb'_append_extractLsb'_eq_extractLsb' (by rfl),
    BitVec.extractLsb'_append_extractLsb'_eq_extractLsb' (by rfl)]
  exact BitVec.extractLsb'_eq_self

/-- The bits of a bit string over a byte are those of the string, eight higher. -/
theorem getLsbD_append_byte {n : Nat} (hi : BitVec n) (b : Byte) (k : Nat) :
    (hi ++ b).getLsbD (8 + k) = hi.getLsbD k := by
  rw [BitVec.getLsbD_append, if_neg (by omega), Nat.add_sub_cancel_left]

/-- Each field of an input tuple stands where the decoder reads it (30_encoding.md R112). -/
theorem decodeInput_encodeInput (i : Input) : decodeInput (encodeInput i) = i := by
  obtain ⟨sample, rx, tx, abort, avail⟩ := i
  simp only [decodeInput, encodeInput, Input.mk.injEq]
  refine ⟨BitVec.extractLsb'_append_eq_right, ?rx, ?tx, ?abort, ?avail⟩
  case rx => rw [getLsbD_append_byte _ _ 0, getLsbD_zero_append_flagBit]
  case tx => rw [getLsbD_append_byte _ _ 1, getLsbD_succ_append, getLsbD_zero_append_flagBit]
  case abort => rw [getLsbD_append_byte _ _ 2, getLsbD_succ_append, getLsbD_succ_append, getLsbD_zero_append_flagBit]
  case avail =>
    rw [getLsbD_append_byte _ _ 3, getLsbD_succ_append, getLsbD_succ_append, getLsbD_succ_append,
      flagBit_one_getLsbD_zero]

theorem decodeInput_sample_toNat (w : BitVec 12) : (decodeInput w).sample.toNat = w.toNat % 256 := by
  rw [decodeInput, BitVec.extractLsb'_toNat, Nat.shiftRight_zero]

end Sys2Proof

open Sys2Proof Sys2Proof.Machine

/-- Settles O2: both round trips, and the two refusals from the three answers of the decoder. -/
theorem decodeAndEncodeAgreeOnCommands : Obligations.DecodeAndEncodeAgreeOnCommands := by
  refine ⟨decode_encode, fun w i h => encode_of_decode h, fun w => ?upper, fun w => ?reserved⟩
  case upper =>
    rcases decode_cases w with ⟨hge, hd⟩ | ⟨hlt, -, hd⟩ | ⟨hlt, -, i, hd⟩
    · exact iff_of_true hd hge
    · exact iff_of_false (by simp [hd]) (Nat.not_le.2 hlt)
    · exact iff_of_false (by simp [hd]) (Nat.not_le.2 hlt)
  case reserved =>
    rcases decode_cases w with ⟨hge, hd⟩ | ⟨hlt, hmem, hd⟩ | ⟨-, hmem, i, hd⟩
    · exact iff_of_false (by simp [hd]) fun h => Nat.not_le.2 h.1 hge
    · exact iff_of_true hd ⟨hlt, hmem⟩
    · exact iff_of_false (by simp [hd]) fun h => h.2 hmem

/-- Settles O1: each of the ten words is the word of its command. -/
theorem decodeReadsTheTenCommandWords : Obligations.DecodeReadsTheTenCommandWords :=
  ⟨decode_encode .cfgmerge, decode_encode .cfgrd, decode_encode .acq, decode_encode .readlf, decode_encode .reader,
    decode_encode .sniff, decode_encode .arm, decode_encode .edge, decode_encode .mfill, decode_encode .mbits⟩

/-- Settles O3, field by field. -/
theorem inputWordAndTupleAgree : Obligations.InputWordAndTupleAgree :=
  ⟨decodeInput_encodeInput, encodeInput_decodeInput, fun w => ⟨decodeInput_sample_toNat w, rfl, rfl, rfl, rfl⟩⟩

end

section
/-! What a word written to `CMD` does, and the run of a command line: the operand writes in order, then the command
(30_encoding.md R101, R116, R117, R119; 70_reset_and_hazards.md R314). -/

namespace Sys2Proof.Machine

/-! ### A word written to `CMD` -/

theorem writeCommand_of_ok {w : Word} {i : Instr} (h : decode w = .ok i) (s : State) : writeCommand w s = exec i s := by
  simp [writeCommand, h]

theorem writeCommand_of_error {w : Word} {e : DecodeError} (h : decode w = .error e) (s : State) :
    writeCommand w s = .next s.flagIllegal := by
  simp [writeCommand, h]

/-- Register number 0 is `CMD` (10_state.md R46): the host's write to it is a command word. -/
theorem step_of_command_write (s : State) (w : Word) (rest : List Move) (hp : s.pending = .write 0 w :: rest) :
    step s = writeCommand w { s with pending := rest } :=
  step_of_pending_cons s _ rest hp

theorem exec_of_busy (i : Instr) (s : State) (h : s.busy = true) : exec i s = .next s.rejectCommand := by
  rw [exec_eq_accept, acceptWhenIdle_busy _ _ _ h]

/-- A host write to the number of an `ARG` register sets that register. -/
theorem step_of_argument_write (s : State) (i : Fin 7) (v : Word) (rest : List Move)
    (hp : s.pending = .write (3 + i.val) v :: rest) :
    step s = .next { s with pending := rest, args := s.args.set i v } := by
  rw [step_of_pending_cons s _ rest hp, perform, hostWrite, show decodeReg (3 + i.val) = some (.arg i) from
    decodeReg_number (.arg i)]

/-! ### Runs -/

theorem machine_run_succ_of_next (M : Host.Core) {s t : M.State} (h : M.step s = .next t) (k : Nat) :
    M.run (k + 1) s = M.run k t := by
  simp only [Host.Core.run, h]

theorem machine_run_one (M : Host.Core) (s : M.State) : M.run 1 s = M.step s := by
  unfold Host.Core.run
  cases M.step s <;> rfl

theorem core_run_succ_of_next {s t : State} (h : step s = .next t) (k : Nat) : core.run (k + 1) s = core.run k t :=
  machine_run_succ_of_next core h k

theorem core_run_one (s : State) : core.run 1 s = step s := machine_run_one core s

/-! ### Command lines -/

theorem operands_length_le (i : Instr) : i.format.operands.length ≤ 7 := by cases i <;> decide

/-- A well-formed line has no more operands than there are `ARG` registers (30_encoding.md R102). -/
theorem operands_length_of_wellFormed {c : CommandLine} (h : c.wellFormed = true) : c.operands.length ≤ 7 := by
  obtain ⟨hcount, -⟩ := Bool.and_eq_true_iff.1 h
  exact (eq_of_beq hcount).trans_le (operands_length_le c.instr)

/-- The accesses of a command line (30_encoding.md R119): operand `k` to register `3 + k`, then the command word. -/
theorem moves_of_encodeLine (c : CommandLine) :
    ((encodeLine c).map fun p => Move.write p.1 p.2) =
      (c.operands.mapIdx fun k v => Move.write (3 + k) (encodeOperand v)) ++ [.write 0 (encode c.instr)] := by
  simp only [encodeLine, List.map_append, List.mapIdx_eq_zipIdx_map, List.map_map]
  rfl

/-- Operand `j` and those after it are written to `ARG[j]` and those after it; the registers below and above keep what
they held. -/
theorem run_operand_writes (vs : List Int) (j : Nat) (s : State) (rest : List Move) (hj : j + vs.length ≤ 7)
    (hp : s.pending = (vs.mapIdx fun k v => Move.write (3 + (j + k)) (encodeOperand v)) ++ rest) :
    ∃ x : Args,
      (∀ k : Fin 7, x.get k =
        if j ≤ k.val then (vs[k.val - j]?).elim (s.args.get k) encodeOperand else s.args.get k) ∧
      ∀ n, core.run (vs.length + n) s = core.run n { s with pending := rest, args := x } := by
  induction vs generalizing j s with
  | nil =>
    refine ⟨s.args, fun k => by simp, fun n => ?_⟩
    rw [← show s.pending = rest from hp, List.length_nil, Nat.zero_add]
  | cons v vs ih =>
    rw [List.length_cons] at hj
    have hshift : (fun k v => Move.write (3 + (j + (k + 1))) (encodeOperand v)) =
        fun k v => Move.write (3 + (j + 1 + k)) (encodeOperand v) := by
      funext k v
      rw [Nat.add_right_comm, Nat.add_assoc j]
    rw [List.mapIdx_cons, hshift, List.cons_append] at hp
    have hstep := step_of_argument_write s ⟨j, by omega⟩ (encodeOperand v) _ hp
    obtain ⟨x, hx, hrun⟩ := ih (j + 1) { s with pending := _, args := s.args.set ⟨j, by omega⟩ (encodeOperand v) }
      (by omega) rfl
    refine ⟨x, fun k => ?_, fun n => ?_⟩
    · rw [hx k, Args.get_set]
      rcases Nat.lt_trichotomy k.val j with hlt | heq | hgt
      · simp [Fin.ext_iff, Nat.not_le.2 hlt, show ¬ j + 1 ≤ k.val by omega, show k.val ≠ j by omega]
      · simp [Fin.ext_iff, heq]
      · obtain ⟨d, hd⟩ : ∃ d, k.val - j = d + 1 := ⟨k.val - j - 1, by omega⟩
        simp [Fin.ext_iff, show j + 1 ≤ k.val by omega, show j ≤ k.val by omega, show k.val ≠ j by omega, hd,
          show k.val - (j + 1) = d by omega]
    · rw [List.length_cons, Nat.add_right_comm, core_run_succ_of_next hstep, hrun]

end Sys2Proof.Machine

open Sys2Proof Sys2Proof.Machine

/-- Settles O5: the move is a write to register 0, and the word decodes. -/
theorem stepRunsTheDecodedCommand : Obligations.StepRunsTheDecodedCommand := by
  intro s w rest i hp hd
  rw [step_of_command_write s w rest hp, writeCommand_of_ok hd]

/-- Settles O7: a word that is none of the ten decodes to an error. -/
theorem illegalWordSetsOnlyIll : Obligations.IllegalWordSetsOnlyIll := by
  intro s w rest hp hw
  obtain ⟨e, hd⟩ := decode_error_of_not_mem hw
  rw [step_of_command_write s w rest hp, writeCommand_of_error hd]
  rfl

/-- Settles O8: every command tests `BUSY` first. -/
theorem runningCallRejectsEveryCommand : Obligations.RunningCallRejectsEveryCommand :=
  fun s i hb => exec_of_busy i s hb

/-- Settles O4: the operand writes one after another, then the write of the command word. -/
theorem commandLineRunsAsItsAccesses : Obligations.CommandLineRunsAsItsAccesses := by
  intro s c rest hwf hp
  rw [moves_of_encodeLine, List.append_assoc] at hp
  obtain ⟨x, hx, hrun⟩ := run_operand_writes c.operands 0 s (.write 0 (encode c.instr) :: rest)
    (by simpa using operands_length_of_wellFormed hwf) (by simpa using hp)
  refine ⟨x, fun k => ?_, ?_⟩
  · rw [hx k, if_pos (Nat.zero_le _), Nat.sub_zero]
    cases c.operands[k.val]? <;> rfl
  · rw [hrun 1, core_run_one, step_of_command_write _ _ rest rfl, writeCommand_of_ok (decode_encode c.instr)]

end

section
/-! The lines of an iteration after its watchdog kick neither read nor change `OP`, the event trace and the count of the
samples consumed; so an iteration kicks at most once, and consumes a sample with the kick only (30_encoding.md R115;
42_acquire.md R164, R165). -/

namespace Sys2Proof.Machine

/-- The state with another `OP`, event trace and count of consumed samples. -/
def State.withRecord (o : BitVec 8) (es : List Event) (n : Nat) (s : State) : State :=
  { s with op := o, trace := es, samplesRead := n }

/-- The state with another command in `OP`. -/
def State.withOp (o : BitVec 8) (s : State) : State := { s with op := o }

/-- A line that does the same whatever these three hold, and leaves them alone. -/
def Unrecorded (k : State → Flow) : Prop :=
  ∀ o es n s, k (s.withRecord o es n) = (k s).map (State.withRecord o es n)

/-- The same for an access to the buffer. -/
def UnrecordedAccess (k : State → Except Fault State) : Prop :=
  ∀ o es n s, k (s.withRecord o es n) = (k s).map (State.withRecord o es n)

namespace Unrecorded

theorem andThen {f k : State → Flow} (hf : Unrecorded f) (hk : Unrecorded k) :
    Unrecorded fun s => (f s).andThen k := by
  intro o es n s
  simp only [hf o es n s]
  cases f s with
  | pass t => exact hk o es n t
  | _ => rfl

theorem ofAccess {k : State → Except Fault State} (hk : UnrecordedAccess k) :
    Unrecorded fun s => Flow.ofAccess (k s) := by
  intro o es n s
  simp only [hk o es n s]
  cases k s <;> rfl

/-- Such a line answers with the trace and the sample count it was given. -/
theorem keeps {k : State → Flow} (hk : Unrecorded k) (s : State) :
    (k s).Answers fun t => t.trace = s.trace ∧ t.samplesRead = s.samplesRead := by
  have hs : k s = (k s).map (State.withRecord s.op s.trace s.samplesRead) := hk s.op s.trace s.samplesRead s
  rw [hs]
  cases k s with
  | fault e => trivial
  | _ => exact ⟨rfl, rfl⟩

/-- Such a line does the same for another command in `OP`. -/
theorem map_withOp {k : State → Flow} (hk : Unrecorded k) (o : BitVec 8) (s : State) :
    k (s.withOp o) = (k s).map (State.withOp o) := by
  have hs : k (s.withOp o) = (k s).map (State.withRecord o s.trace s.samplesRead) := hk o s.trace s.samplesRead s
  have hkeep := hk.keeps s
  rw [hs]
  cases hf : k s with
  | fault e => rfl
  | _ t =>
    rw [hf] at hkeep
    obtain ⟨htrace, hread⟩ := hkeep
    simp only [Flow.map, State.withRecord, State.withOp, htrace, hread]

end Unrecorded

/-! ### The generic engine -/

theorem raceCheck_unrecorded (inp : Input) : Unrecorded (raceCheck inp) := by
  intro o es n s
  simp only [raceCheck, apply_ite (Flow.map _)]
  rfl

theorem gate_unrecorded (x : Byte) : Unrecorded (gate x) := by
  intro o es n s
  simp only [gate, apply_ite (Flow.map _)]
  rfl

theorem skipSample_unrecorded : Unrecorded skipSample := by
  intro o es n s
  simp only [skipSample, apply_ite (Flow.map _)]
  rfl

theorem memWrite_unrecorded (a : Nat) (v : Byte) : UnrecordedAccess fun s => memWrite s a v := by
  intro o es n s
  simp only [memWrite, apply_ite (Except.map _)]
  rfl

theorem bpw_unrecorded (bit : Bool) : UnrecordedAccess (bpw bit) := by
  intro o es n s
  by_cases h : s.bp.position.toNat / 8 < s.cap
  · rw [bpw_of_lt bit s h, bpw_of_lt bit (s.withRecord o es n) h]; rfl
  · rw [bpw_of_ge bit s (Nat.le_of_not_lt h), bpw_of_ge bit (s.withRecord o es n) (Nat.le_of_not_lt h)]; rfl

theorem bpwAll_unrecorded (bits : List Bool) : UnrecordedAccess (bpwAll bits) := by
  intro o es n s
  induction bits generalizing s with
  | nil => rfl
  | cons bit bits ih =>
    simp only [bpwAll, bpw_unrecorded bit o es n s]
    cases bpw bit s with
    | error e => rfl
    | ok t => exact ih t

theorem storeByte_unrecorded (v : Byte) : UnrecordedAccess (storeByte v) := by
  intro o es n s
  have hw := memWrite_unrecorded s.acq.totalAccepted.toNat v o es n s
  simp only [storeByte, State.withRecord] at hw ⊢
  rw [hw]
  cases memWrite s s.acq.totalAccepted.toNat v <;> rfl

theorem storeBits_unrecorded (v : Byte) : UnrecordedAccess (storeBits v) := by
  intro o es n s
  have hb := bpwAll_unrecorded (topBits v s.lat.bps.toNat) o es n s
  simp only [storeBits, State.withRecord] at hb ⊢
  rw [hb]
  cases bpwAll (topBits v s.lat.bps.toNat) s <;> rfl

theorem storeSample_unrecorded (v : Byte) : UnrecordedAccess (storeSample v) := by
  intro o es n s
  simp only [storeSample, apply_ite (Except.map _), ← storeByte_unrecorded v o es n s,
    ← storeBits_unrecorded v o es n s]
  rfl

theorem countBudget_unrecorded : Unrecorded countBudget := by
  intro o es n s
  simp only [countBudget, apply_ite (Flow.map _)]
  rfl

theorem logValue_unrecorded (v : Byte) : Unrecorded (logValue v) :=
  (Unrecorded.ofAccess (storeSample_unrecorded v)).andThen countBudget_unrecorded

theorem closeGroup_unrecorded (x : Byte) : Unrecorded (closeGroup x) := fun o es n s =>
  logValue_unrecorded _ o es n { s with acq := { s.acq with runningSum := 0#40 } }

theorem decimate_unrecorded (x : Byte) : Unrecorded (decimate x) := by
  intro o es n s
  simp only [decimate, apply_ite (Flow.map _), ← closeGroup_unrecorded x o es n]
  rfl

theorem processSample_unrecorded (x : Byte) : Unrecorded (processSample x) := by
  intro o es n s
  simp only [processSample, apply_ite (Flow.map _),
    ← ((gate_unrecorded x).andThen skipSample_unrecorded).andThen (decimate_unrecorded x) o es n s]
  rfl

/-! ### EDGE -/

theorem putByte_unrecorded (v : Byte) : Unrecorded (putByte v) := fun o es n s =>
  ((Unrecorded.ofAccess (memWrite_unrecorded s.idx.toNat v)).andThen
    (k := fun t => .pass { t with idx := t.idx + 1#32 }) fun _ _ _ _ => rfl) o es n s

theorem edgeSeekHigh_unrecorded (x : Byte) : Unrecorded (edgeSeekHigh x) := by
  intro o es n s
  simp only [edgeSeekHigh, apply_ite (Flow.map _)]
  rfl

theorem edgeSeekLow_unrecorded (x : Byte) : Unrecorded (edgeSeekLow x) := by
  intro o es n s
  simp only [edgeSeekLow, apply_ite (Flow.map _)]
  rfl

theorem putTransition_unrecorded (x : Byte) : Unrecorded (putTransition x) := by
  intro o es n s
  simp only [putTransition, apply_ite (Flow.map _), ← putByte_unrecorded x o es n s]
  rfl

theorem edgePreCollect_unrecorded (x : Byte) : Unrecorded (edgePreCollect x) := by
  intro o es n s
  have hput : ∀ v, Unrecorded fun t => ((putByte v t).andThen (putTransition x)).andThen fun t =>
      .pass { t with phaseReg := edgePhaseBits .collecting } := fun v =>
    ((putByte_unrecorded v).andThen (putTransition_unrecorded x)).andThen fun _ _ _ _ => rfl
  simp only [edgePreCollect, apply_ite (Flow.map _), ← hput s.edge.lastSample o es n s]
  rfl

theorem edgeSample_unrecorded (x : Byte) : Unrecorded (edgeSample x) := by
  intro o es n s
  simp only [edgeSample, show (s.withRecord o es n).phaseReg = s.phaseReg from rfl]
  cases edgePhase s.phaseReg with
  | none => rfl
  | some p =>
    cases p with
    | seekSkip => exact edgeSeekHigh_unrecorded x o es n s
    | seekHigh => exact edgeSeekHigh_unrecorded x o es n s
    | seekLow => exact edgeSeekLow_unrecorded x o es n s
    | preCollect => exact edgePreCollect_unrecorded x o es n s
    | collecting => exact putByte_unrecorded x o es n s

/-! ### MFILL and MBITS -/

theorem manSeekHigh_unrecorded (x : Byte) : Unrecorded (manSeekHigh x) := by
  intro o es n s
  simp only [manSeekHigh, apply_ite (Flow.map _)]
  rfl

theorem manSeekLow_unrecorded (x : Byte) : Unrecorded (manSeekLow x) := by
  intro o es n s
  simp only [manSeekLow, apply_ite (Flow.map _)]
  rfl

theorem fillData_unrecorded (x : Byte) : Unrecorded (fillData x) := fun o es n s =>
  ((putByte_unrecorded (quantize 255#8 0#8 x s.man.hold)).andThen
    (k := fun t => .pass { t with man := { t.man with hold := quantize 255#8 0#8 x s.man.hold } })
    fun _ _ _ _ => rfl) o es n s

theorem bitsData_unrecorded (x : Byte) : Unrecorded (bitsData x) := by
  intro o es n s
  have hput : ∀ v, Unrecorded fun t => (putByte v t).andThen fun u =>
      .pass { u with man := { u.man with period := BitVec.ofNat 32 Config.t1 } } := fun v =>
    (putByte_unrecorded v).andThen fun _ _ _ _ => rfl
  simp only [bitsData, apply_ite (Flow.map _), ← hput (flagBit 8 (updateBit x s.man).curr) o es n]
  rfl

theorem manSample_unrecorded {data : Byte → State → Flow} (hd : ∀ x, Unrecorded (data x)) (x : Byte) :
    Unrecorded (manSample data x) := by
  intro o es n s
  simp only [manSample, show (s.withRecord o es n).phaseReg = s.phaseReg from rfl]
  cases manPhase s.phaseReg with
  | none => rfl
  | some p =>
    cases p with
    | seekHigh => exact manSeekHigh_unrecorded x o es n s
    | seekLow => exact manSeekLow_unrecorded x o es n s
    | data => exact hd x o es n s

/-! ### The kick -/

/-- One watchdog kick was added to the trace, and the sample consumed if one was ready. -/
def Kicked (inp : Input) (s t : State) : Prop :=
  t.trace = s.trace ++ [.wdtKick] ∧ t.samplesRead = s.samplesRead + if inp.rxReady = true then 1 else 0

/-- The call ends before the kick of this iteration, with nothing added to the trace and no sample consumed. -/
def Flow.EndsUnkicked (s : State) (f : Flow) : Prop :=
  ∃ c t, f = .terminate c t ∧ t.trace = s.trace ∧ t.samplesRead = s.samplesRead

/-- The last lines of every engine: the kick, and the sample's rule when a sample is ready. -/
theorem kick_then_sample {k : Byte → State → Flow} (hk : ∀ x, Unrecorded (k x)) (inp : Input) (s : State) :
    (if inp.rxReady = true then k inp.sample (s.emit .wdtKick).consumeSample else .pass (s.emit .wdtKick)).Answers
      (Kicked inp s) := by
  unfold Kicked
  cases inp.rxReady with
  | true => exact (hk inp.sample).keeps (s.emit .wdtKick).consumeSample
  | false => exact ⟨rfl, rfl⟩

theorem iterateAcquisition_kick (inp : Input) (s : State) :
    (iterateAcquisition inp s).EndsUnkicked s ∨ (iterateAcquisition inp s).Answers (Kicked inp s) := by
  unfold iterateAcquisition
  split
  · exact .inl ⟨_, _, rfl, rfl, rfl⟩
  · rcases raceCheck_cases inp s with ⟨n, h⟩ | ⟨-, -, h⟩
    · rw [h]
      exact .inr (kick_then_sample processSample_unrecorded inp { s with acq := { s.acq with raceCnt := n } })
    · rw [h]
      exact .inl ⟨_, _, rfl, rfl, rfl⟩

theorem iterateEdge_kick (inp : Input) (s : State) :
    (iterateEdge inp s).EndsUnkicked s ∨ (iterateEdge inp s).Answers (Kicked inp s) := by
  unfold iterateEdge
  split
  · exact .inl ⟨_, _, rfl, rfl, rfl⟩
  split
  · exact .inl ⟨_, _, rfl, rfl, rfl⟩
  split
  · exact .inl ⟨_, _, rfl, rfl, rfl⟩
  exact .inr (kick_then_sample edgeSample_unrecorded inp s)

theorem iterateManchester_kick {data : Byte → State → Flow} (hd : ∀ x, Unrecorded (data x)) (inp : Input) (s : State) :
    (iterateManchester data inp s).EndsUnkicked s ∨ (iterateManchester data inp s).Answers (Kicked inp s) := by
  unfold iterateManchester
  split
  · exact .inl ⟨_, _, rfl, rfl, rfl⟩
  split
  · exact .inl ⟨_, _, rfl, rfl, rfl⟩
  split
  · exact .inl ⟨_, _, rfl, rfl, rfl⟩
  exact .inr (kick_then_sample (manSample_unrecorded hd) inp s)

/-- An iteration of any engine ends the call before its kick, or kicks once. -/
theorem iterate_kick (i : Instr) (inp : Input) (s : State) :
    (iterate i inp s).EndsUnkicked s ∨ (iterate i inp s).Answers (Kicked inp s) := by
  cases i with
  | acq => exact iterateAcquisition_kick inp s
  | readlf => exact iterateAcquisition_kick inp s
  | reader => exact iterateAcquisition_kick inp s
  | sniff => exact iterateAcquisition_kick inp s
  | edge => exact iterateEdge_kick inp s
  | mfill => exact iterateManchester_kick fillData_unrecorded inp s
  | mbits => exact iterateManchester_kick bitsData_unrecorded inp s
  | cfgmerge => exact .inr trivial
  | cfgrd => exact .inr trivial
  | arm => exact .inr trivial

/-- The terminating step adds events to the trace, and no kick among them (60_exceptions.md R283 lines 2 and 3). -/
theorem terminateCall_trace (c : Cause) (s : State) :
    ∃ es : List Event, (terminateCall c s).trace = s.trace ++ es ∧ es.count .wdtKick = 0 := by
  obtain ⟨post, hpost, hpostCount⟩ :
      ∃ es : List Event, (terminatePost s).trace = s.trace ++ es ∧ es.count .wdtKick = 0 := by
    unfold terminatePost
    split
    · exact ⟨_, rfl, rfl⟩
    · split
      · exact ⟨_, rfl, rfl⟩
      · exact ⟨[], (List.append_nil _).symm, rfl⟩
  obtain ⟨front, hfront, hfrontCount⟩ : ∃ es : List Event,
      (terminateFrontEnd (terminatePost s)).trace = (terminatePost s).trace ++ es ∧ es.count .wdtKick = 0 := by
    unfold terminateFrontEnd
    split
    · exact ⟨_, rfl, by split <;> rfl⟩
    · exact ⟨[], (List.append_nil _).symm, rfl⟩
  refine ⟨post ++ front, ?_, by rw [List.count_append, hpostCount, hfrontCount]⟩
  rw [← List.append_assoc, ← hpost, ← hfront]
  rfl

end Sys2Proof.Machine

open Sys2Proof Sys2Proof.Machine

/-- Settles O49: an iteration that goes on has kicked once; one that ends the call has kicked at most once, and the
terminating step adds no kick. -/
theorem kickAndConsumptionOfAnIteration : Obligations.KickAndConsumptionOfAnIteration := by
  intro s t w hb h
  obtain ⟨i, u, -, hu, ⟨rfl, hit⟩ | ⟨c, -, rfl, hit⟩⟩ := pollIteration_cases hb h
  · have hkicked : Kicked (decodeInput w) s t := by
      rcases iterate_kick i (decodeInput w) s with ⟨c, v, hend, -⟩ | hkick
      · rw [hend] at hit; simp at hit
      · rcases hit with hit | hit <;> (rw [hit] at hkick; exact hkick)
    exact ⟨[.wdtKick], hkicked.1, le_rfl, hkicked.2, fun _ => rfl⟩
  · obtain ⟨es, hes, hcount⟩ := terminateCall_trace c u
    have hend : (terminateCall c u).busy = true → es = [.wdtKick] := fun hbusy => by simp at hbusy
    rcases iterate_kick i (decodeInput w) s with ⟨d, v, hv, htrace, hread⟩ | hkick
    · obtain ⟨rfl, rfl⟩ := Flow.terminate.inj (hit.symm.trans hv)
      refine ⟨es, by rw [hes, htrace], by omega, ?_, hend⟩
      rw [terminateCall_samplesRead, hread, hcount, ite_self, Nat.add_zero]
    · rw [hit] at hkick
      obtain ⟨htrace, hread⟩ := hkick
      refine ⟨.wdtKick :: es, ?_, by simp [hcount], ?_, fun hbusy => by simp at hbusy⟩
      · rw [hes, htrace, List.append_assoc, List.singleton_append]
      · rw [terminateCall_samplesRead, hread, List.count_cons_self, hcount]

end

section
/-! What the acceptances of ARM, ACQ and the READLF family latch and emit (30_encoding.md R106 to R109, R114;
42_acquire.md R160; 43_frontend.md R200 to R211), and that READER and SNIFF are expansions of READLF (30_encoding.md R121). -/

namespace Sys2Proof.Machine

/-! ### Operands -/

theorem eq_zero_iff_toNat {n : Nat} (w : BitVec n) : w = 0#n ↔ w.toNat = 0 := by
  rw [← BitVec.toNat_inj, BitVec.toNat_zero]

theorem truth_iff (w : Word) : truth w = true ↔ w.toNat ≠ 0 := by
  simp [truth, eq_zero_iff_toNat]

theorem eq_truth {b : Bool} {w : Word} (h : b = true ↔ w.toNat ≠ 0) : b = truth w :=
  Bool.eq_iff_iff.2 (h.trans (truth_iff w).symm)

theorem decOperand_toNat (w : Word) : (decOperand w).toNat = if w.toNat = 0 then 1 else w.toNat := by
  simp only [decOperand, eq_zero_iff_toNat, apply_ite BitVec.toNat]
  rfl

theorem bpsOperand_toNat (w : Word) :
    (bpsOperand w).toNat = if w.toNat = 0 then 1 else if 8 < w.toNat then 8 else w.toNat := by
  unfold bpsOperand
  simp only [eq_zero_iff_toNat]
  split
  · rfl
  · split
    · rfl
    · rw [BitVec.toNat_setWidth, Nat.mod_eq_of_lt (by omega)]

theorem skipOperand_toInt (w : Word) : (skipOperand w).toInt = max w.toInt 0 := by
  unfold skipOperand
  split
  · rw [max_eq_right (by omega)]; rfl
  · rw [max_eq_left (by omega)]

/-- The effective divisor of ARM: the standard preset, the operand itself, or the high preset (43_frontend.md R201). -/
theorem effDiv_spec (p : Config.Params) (d : Word) :
    if d.toNat = 0 then effDiv p d = p.divStd
    else if 19 ≤ d.toNat ∧ d.toNat ≤ 255 then (effDiv p d).toNat = d.toNat
    else effDiv p d = p.divHigh := by
  unfold effDiv
  simp only [eq_zero_iff_toNat]
  split
  · rfl
  · split
    · rw [BitVec.toNat_setWidth, Nat.mod_eq_of_lt (by omega)]
    · rfl

/-- A configured divisor inside its domain is effective as it is. -/
theorem effDiv_of_configured (p : Config.Params) (d : BitVec 8) (h : 19 ≤ d.toNat) : effDiv p (d.setWidth 32) = d := by
  have hd : (d.setWidth 32).toNat = d.toNat := BitVec.toNat_setWidth_of_le (by decide)
  have hspec := effDiv_spec p (d.setWidth 32)
  rw [hd, if_neg (by omega), if_pos ⟨h, Nat.le_of_lt_succ d.isLt⟩] at hspec
  exact BitVec.eq_of_toNat_eq hspec

/-- The arming sequence settles only with the field on (43_frontend.md R200). -/
theorem armEvents_truth (d : BitVec 8) (w : Word) :
    armEvents d (truth w) =
      if w.toNat = 0 then [.feLoadBitstream, .feSetDivisor d, .feSetMode false, .feRoutePeak, .feStartClock]
      else [.feLoadBitstream, .feSetDivisor d, .feSetMode true, .feRoutePeak, .waitSettle, .feStartClock] := by
  split
  · next h => rw [← eq_truth (b := false) (by simp [h])]; rfl
  · next h => rw [(truth_iff w).2 h]; rfl

/-! ### The READLF family -/

/-- READLF, READER and SNIFF are one start of the generic engine, with the field, the verbosity and the budget each of
them gives (43_frontend.md R205, R210, R211). -/
theorem acceptance_of_readlfFamily {s : State} {i : Instr} {field verbose : Bool} {budget : Nat}
    (h : i = .readlf ∧ (field = true ↔ s.args.arg0.toNat ≠ 0) ∧ (verbose = true ↔ s.args.arg1.toNat ≠ 0) ∧
        budget = s.args.arg2.toNat ∨
      i = .reader ∧ field = true ∧ (verbose = true ↔ s.args.arg0.toNat ≠ 0) ∧ budget = s.args.arg1.toNat ∨
      i = .sniff ∧ field = false ∧ verbose = true ∧ budget = 0xFFFFFFFF) :
    ∃ b : Word, b.toNat = budget ∧ acceptance i s = startFrontEndCall field verbose b s := by
  rcases h with ⟨rfl, hfield, hverbose, rfl⟩ | ⟨rfl, rfl, hverbose, rfl⟩ | ⟨rfl, rfl, rfl, rfl⟩
  · exact ⟨s.args.arg2, rfl, by rw [eq_truth hfield, eq_truth hverbose]; rfl⟩
  · exact ⟨s.args.arg1, rfl, by rw [eq_truth hverbose]; rfl⟩
  · exact ⟨0xFFFFFFFF#32, rfl, rfl⟩

theorem exec_readlf_of_truth (s : State) (hb : s.busy = false) {field verbose : Bool} (hf : truth s.args.arg0 = field)
    (hv : truth s.args.arg1 = verbose) :
    exec .readlf s = .next (startFrontEndCall field verbose s.args.arg2 { s with op := Instr.readlf.opcode }) := by
  rw [exec_of_idle .readlf s hb, ← hf, ← hv]
  rfl

/-! ### Poll iterations under another command in `OP` -/

theorem kickAndProcess_map_withOp (inp : Input) (o : BitVec 8) (s : State) :
    kickAndProcess inp (s.withOp o) = (kickAndProcess inp s).map (State.withOp o) := by
  cases hr : inp.rxReady with
  | true =>
    rw [kickAndProcess_of_ready inp s hr, kickAndProcess_of_ready inp (s.withOp o) hr]
    exact (processSample_unrecorded inp.sample).map_withOp o (s.emit .wdtKick).consumeSample
  | false =>
    rw [kickAndProcess_of_not_ready inp s hr, kickAndProcess_of_not_ready inp (s.withOp o) hr]
    rfl

/-- The lines of the generic engine do the same whatever command `OP` names. -/
theorem iterateAcquisition_map_withOp (inp : Input) (o : BitVec 8) (s : State) :
    iterateAcquisition inp (s.withOp o) = (iterateAcquisition inp s).map (State.withOp o) := by
  unfold iterateAcquisition
  split
  · rfl
  · rw [(raceCheck_unrecorded inp).map_withOp o s]
    cases raceCheck inp s with
    | pass t => exact kickAndProcess_map_withOp inp o t
    | _ => rfl

theorem acqFamily_of_readlfFamily {i : Instr} (h : i.readlfFamily = true) : i.acqFamily = true := by
  cases i with
  | readlf => rfl
  | reader => rfl
  | sniff => rfl
  | _ => cases h

/-- The terminating step of the READLF family (60_exceptions.md R283). -/
theorem terminateCall_of_readlfFamily {i : Instr} (hi : i.readlfFamily = true) {s : State} (hop : s.op = i.opcode)
    (c : Cause) :
    terminateCall c s =
      { s with
        busy := false
        cause := c
        result := s.bp.numBits
        trace := s.trace ++ [.postOffset s.acq.totalAccepted, .postScore s.acq.totalAccepted] ++
          .feOff :: (if s.lat.verbose then [.diag .summary] else [])
        postDue := some s.acq.totalAccepted } := by
  have hacq := acqFamily_of_readlfFamily hi
  have hpost : terminatePost s = postProcess s.acq.totalAccepted s := if_pos ((opIs_of_op _ s i hop).trans hacq)
  have hres : resultOf s = s.bp.numBits := if_pos ((opIs_of_op _ s i hop).trans hacq)
  have hfront : opIs Instr.readlfFamily (postProcess s.acq.totalAccepted s) = true :=
    (opIs_of_op _ (postProcess s.acq.totalAccepted s) i hop).trans hi
  rw [terminateCall, hpost, hres, terminateFrontEnd, if_pos hfront]
  rfl

/-- The READLF family polls alike: with another of its commands in `OP`, an iteration leads to the same state but for
`OP` (43_frontend.md R206). -/
theorem pollIteration_withOp {i j : Instr} (hi : i.readlfFamily = true) (hj : j.readlfFamily = true) {s t : State}
    {w : BitVec 12} (hop : s.op = i.opcode) (h : pollIteration w s = .next t) :
    pollIteration w (s.withOp j.opcode) = .next (t.withOp j.opcode) := by
  cases hb : s.busy with
  | false =>
    rw [pollIteration_of_idle w s hb] at h
    cases h
    exact pollIteration_of_idle w (s.withOp j.opcode) hb
  | true =>
    have hk := iterateAcquisition_keeps (decodeInput w) s
    rw [pollIteration_of_op w s i hb hop, runEngine_acqFamily i _ s (acqFamily_of_readlfFamily hi)] at h
    rw [pollIteration_of_op w (s.withOp j.opcode) j hb rfl, runEngine_acqFamily j _ _
      (acqFamily_of_readlfFamily hj), iterateAcquisition_map_withOp]
    cases hf : iterateAcquisition (decodeInput w) s with
    | pass u => rw [hf] at h; cases h; rfl
    | discard u => rw [hf] at h; cases h; rfl
    | terminate c u =>
      rw [hf] at h hk
      cases h
      have hu : u.op = i.opcode := hk.2.frame.op.trans hop
      refine congrArg Host.Outcome.next ?_
      rw [terminateCall_of_readlfFamily hi hu, terminateCall_of_readlfFamily hj (s := u.withOp j.opcode) rfl]
      rfl
    | fault e => rw [hf] at h; cases h

end Sys2Proof.Machine

open Sys2Proof Sys2Proof.Machine

/-- Settles O18: the acceptance of ARM, its divisor and its events by the two operands. -/
theorem armEmitsTheArmingSequence : Obligations.ArmEmitsTheArmingSequence := by
  intro s hb
  refine ⟨effDiv s.params s.args.arg0, ?_, effDiv_spec s.params s.args.arg0⟩
  rw [exec_of_idle .arm s hb, ← armEvents_truth]
  rfl

/-- Settles O19: the one start of the three commands, its divisor inside the domain and its budget clamped. -/
theorem frontEndCommandsStartACall : Obligations.FrontEndCommandsStartACall := by
  intro s i field verbose budget hb hdiv hi
  obtain ⟨b, hbudget, haccept⟩ := acceptance_of_readlfFamily (s := { s with op := i.opcode }) hi
  refine ⟨cfgLatches field verbose b s, none, ?_, ?dec, rfl, rfl, rfl, ?budget, rfl, rfl, rfl, rfl⟩
  · rw [exec_of_idle i s hb, haccept, startFrontEndCall_eq, startAcquisition_eq]
    simp only [effDiv_of_configured s.params s.cfg.divisor hdiv]
    rfl
  case dec => exact BitVec.toNat_setWidth_of_le (by decide)
  case budget => rw [← hbudget]; exact clampToCap_toNat s b

/-- Settles O21: the acceptance of ACQ, operand by operand. -/
theorem acqStartsACall : Obligations.AcqStartsACall := by
  intro s hb
  refine ⟨acqLatches s, skipOperand s.args.arg6, none, ?_, decOperand_toNat _, bpsOperand_toNat _, truth_iff _, rfl,
    clampToCap_toNat s _, rfl, skipOperand_toInt _, rfl, rfl, rfl⟩
  rw [exec_of_idle .acq s hb]
  rfl

/-- Settles O20: the three acceptances are one start with the same field, verbosity and budget, and the engine looks at
`OP` in the terminating step only, where the three commands are one family. -/
theorem readerAndSniffExpandToReadlf : Obligations.ReaderAndSniffExpandToReadlf := by
  refine ⟨fun s t f hb hf h => ?reader, fun s t v hb hv h => ?sniff, fun s t i w hi hop h => ?polls⟩
  case reader =>
    have htrue : truth f = true := by simp [truth, hf]
    rw [exec_of_idle .reader s hb] at h
    cases h
    exact exec_readlf_of_truth { s with args := { s.args with arg0 := f, arg1 := s.args.arg0, arg2 := s.args.arg1 } } hb
      htrue rfl
  case sniff =>
    have htrue : truth v = true := by simp [truth, hv]
    rw [exec_of_idle .sniff s hb] at h
    cases h
    exact exec_readlf_of_truth { s with args := { s.args with arg0 := 0#32, arg1 := v, arg2 := 0xFFFFFFFF#32 } } hb
      (show truth 0#32 = false from rfl) htrue
  case polls =>
    have hfamily : i.readlfFamily = true := by rcases hi with rfl | rfl <;> rfl
    exact pollIteration_withOp (i := .readlf) rfl hfamily hop h

end

section
/-! The buffer as a stream of bits (40_bitpacker.md): one BPW replaces one bit of it, a run of BPW operations replaces as
many in a row. -/

namespace Sys2Proof.Machine

/-! ### One bit of a byte -/

theorem withBit_getLsbD {b : Nat} (hb : b < 8) (old : Byte) (bit : Bool) (j : Nat) :
    (withBit old b bit).getLsbD j = if j = b then bit else old.getLsbD j := by
  have hmask : (1#8 <<< b).getLsbD j = decide (j = b) := by
    rw [← BitVec.twoPow_eq, BitVec.getLsbD_twoPow]
    simp [hb, eq_comm]
  by_cases hj : j = b
  · subst hj
    cases bit <;> simp [withBit, hmask]
  · cases bit with
    | true => simp [withBit, hmask, hj]
    | false => simpa [withBit, hmask, hj] using BitVec.lt_of_getLsbD

/-! ### One bit of the buffer -/

/-- The buffer with bit number `p` replaced, as BPW leaves it (40_bitpacker.md R132). -/
def Memory.writeBit (m : Memory) (p : Nat) (bit : Bool) : Memory :=
  m.write (p / 8) (withBit (m.read (p / 8)) (7 - p % 8) bit)

theorem Memory.writeBit_wf {m : Memory} (hwf : m.wf = true) (p : Nat) (bit : Bool) : (m.writeBit p bit).wf = true :=
  Memory.write_wf _ _ _ hwf

/-- The written bit reads as written; its siblings in the byte and every other byte are as they were (20_memory.md
R76). -/
theorem bufBit_writeBit {m : Memory} (hwf : m.wf = true) (p q : Nat) (bit : Bool) :
    bufBit (m.writeBit p bit) q = if q = p then bit else bufBit m q := by
  unfold bufBit Memory.writeBit
  by_cases hbyte : q / 8 = p / 8
  · have hsame : 7 - q % 8 = 7 - p % 8 ↔ q = p := by omega
    rw [hbyte, Memory.read_write_same _ _ _ hwf, withBit_getLsbD (by omega)]
    simp only [hsame]
  · have hne : q ≠ p := fun h => hbyte (by rw [h])
    rw [Memory.read_write_other _ _ _ _ hwf hbyte, if_neg hne]

theorem bpw_eq_writeBit (bit : Bool) (s : State) (h : s.bp.position.toNat / 8 < s.cap) :
    bpw bit s = .ok
      { s with
        buf := s.buf.writeBit s.bp.position.toNat bit
        bp := { position := s.bp.position + 1#32, numBits := s.bp.numBits + 1#32 } } :=
  bpw_of_lt bit s h

/-! ### A run of bits -/

/-- The buffer with the bits from number `p` on replaced, first bit first. -/
def Memory.writeBits (m : Memory) (p : Nat) : List Bool → Memory
  | [] => m
  | bit :: bits => (m.writeBit p bit).writeBits (p + 1) bits

theorem Memory.writeBits_wf {m : Memory} (hwf : m.wf = true) (p : Nat) (bits : List Bool) :
    (m.writeBits p bits).wf = true := by
  induction bits generalizing m p with
  | nil => exact hwf
  | cons bit bits ih => exact ih (Memory.writeBit_wf hwf p bit) (p + 1)

/-- A bit before the run is as it was. -/
theorem bufBit_writeBits_of_lt {m : Memory} (hwf : m.wf = true) {p q : Nat} (hq : q < p) (bits : List Bool) :
    bufBit (m.writeBits p bits) q = bufBit m q := by
  induction bits generalizing m p with
  | nil => rfl
  | cons bit bits ih =>
    rw [Memory.writeBits, ih (Memory.writeBit_wf hwf p bit) (by omega), bufBit_writeBit hwf, if_neg (by omega)]

/-- A bit at or behind the start of the run reads as the run's bit at its place, and as it was where the run has
ended. -/
theorem bufBit_writeBits_add {m : Memory} (hwf : m.wf = true) (p k : Nat) (bits : List Bool) :
    bufBit (m.writeBits p bits) (p + k) = bits[k]?.getD (bufBit m (p + k)) := by
  induction bits generalizing m p k with
  | nil => rfl
  | cons bit bits ih =>
    have hwf' := Memory.writeBit_wf hwf p bit
    cases k with
    | zero => simp [Memory.writeBits, bufBit_writeBits_of_lt hwf' (Nat.lt_succ_self p), bufBit_writeBit hwf]
    | succ k =>
      have hplace : p + (k + 1) = p + 1 + k := by omega
      rw [Memory.writeBits, hplace, ih hwf', bufBit_writeBit hwf, if_neg (by omega), List.getElem?_cons_succ]

/-- A run of BPW operations that fits the buffer replaces its bits from the cursor on and moves both cursors by their
number (40_bitpacker.md R134). -/
theorem bpwAll_eq_writeBits (bits : List Bool) (s : State) (hfit : s.bp.position.toNat + bits.length ≤ 8 * s.cap) :
    bpwAll bits s = .ok
      { s with
        buf := s.buf.writeBits s.bp.position.toNat bits
        bp :=
          { position := s.bp.position + BitVec.ofNat 32 bits.length
            numBits := s.bp.numBits + BitVec.ofNat 32 bits.length } } := by
  induction bits generalizing s with
  | nil => simp [bpwAll, Memory.writeBits]
  | cons bit bits ih =>
    rw [List.length_cons] at hfit
    have hcap : s.cap < 2 ^ 29 := s.params.cap.isLt
    have hpos : (s.bp.position + 1#32).toNat = s.bp.position.toNat + 1 :=
      BitVec.toNat_add_of_lt (show s.bp.position.toNat + 1 < 2 ^ 32 by omega)
    have hlen : BitVec.ofNat 32 (bits.length + 1) = 1#32 + BitVec.ofNat 32 bits.length := by
      rw [BitVec.ofNat_add, BitVec.add_comm]
    simp only [bpwAll, bpw_eq_writeBit bit s (by omega)]
    rw [ih _ (by simp only [hpos, State.cap] at *; omega)]
    simp only [hpos, Memory.writeBits, List.length_cons, hlen, BitVec.add_assoc]

end Sys2Proof.Machine

open Sys2Proof Sys2Proof.Machine

/-- Settles O29: the byte BPW writes differs from the old one in the bit the cursor names. -/
theorem bpwWritesOneBit : Obligations.BpwWritesOneBit := fun s bit hwf =>
  ⟨fun hlt =>
    ⟨s.buf.writeBit s.bp.position.toNat bit, Memory.writeBit_wf hwf _ _, bpw_eq_writeBit bit s hlt,
      fun p => bufBit_writeBit hwf _ p bit⟩,
    bpw_of_ge bit s⟩

/-- Settles O30: a run of BPW operations as one replacement of bits, started at the cursor 0 of BPRESET. -/
theorem bitPackerWritesTheStream : Obligations.BitPackerWritesTheStream := by
  intro s bits hwf hfit
  refine ⟨s.buf.writeBits 0 bits, Memory.writeBits_wf hwf 0 bits, ?run, fun p => ?stream⟩
  case run =>
    have hfit0 : (bpreset s).bp.position.toNat + bits.length ≤ 8 * (bpreset s).cap := by simpa using hfit
    rw [bpwAll_eq_writeBits bits (bpreset s) hfit0]
    simp [bpreset]
  case stream =>
    have hbit := bufBit_writeBits_add hwf 0 p bits
    rw [Nat.zero_add] at hbit
    rw [hbit]
    cases bits[p]? <;> rfl

end

section
/-! The configuration commands (41_config.md): what each test of CFGMERGE leaves in its field, what CFGRD puts into `ARG`,
and that a merge of what CFGRD read gives every field its own value. -/

namespace Sys2Proof.Machine

/-! ### The tests of CFGMERGE -/

/-- A field with a domain of natural numbers that its width holds takes a value of the domain unchanged. -/
theorem toNat_ite_ofInt {n : Nat} {lo hi : Int} (hlo : 0 ≤ lo) (hhi : hi < 2 ^ n) (p : Int) (cur : BitVec n) :
    ((if lo ≤ p ∧ p ≤ hi then BitVec.ofInt n p else cur).toNat : Int) =
      if lo ≤ p ∧ p ≤ hi then p else (cur.toNat : Int) := by
  split
  · rename_i hp
    have hnonneg : 0 ≤ p := by omega
    have hlt : p < ((2 ^ n : Nat) : Int) := by push_cast; omega
    rw [BitVec.toNat_ofInt, Int.emod_eq_of_lt hnonneg hlt, Int.toNat_of_nonneg hnonneg]
  · rfl

theorem mergeDecimation_toNat (p : Int) (cur : BitVec 3) :
    ((mergeDecimation p cur).toNat : Int) = if 1 ≤ p ∧ p ≤ 7 then p else (cur.toNat : Int) :=
  toNat_ite_ofInt (by decide) (by decide) p cur

theorem mergeBitsPerSample_toNat (p : Int) (cur : BitVec 4) :
    ((mergeBitsPerSample p cur).toNat : Int) = if 1 ≤ p ∧ p ≤ 8 then p else (cur.toNat : Int) :=
  toNat_ite_ofInt (by decide) (by decide) p cur

theorem mergeDivisor_toNat (p : Int) (cur : BitVec 8) :
    ((mergeDivisor p cur).toNat : Int) = if 19 ≤ p ∧ p ≤ 255 then p else (cur.toNat : Int) :=
  toNat_ite_ofInt (by decide) (by decide) p cur

/-- The threshold and the skip count are words, so they take the operand itself (41_config.md R145, R146). -/
theorem mergeNonNegative_sext32 (w cur : Word) :
    mergeNonNegative (sext32 w) cur = if 0 ≤ w.toInt then w else cur := by
  simp only [mergeNonNegative, sext32, BitVec.ofInt_toInt]

theorem mergeNonNegative_toInt (w cur : Word) :
    (mergeNonNegative (sext32 w) cur).toInt = if 0 ≤ w.toInt then w.toInt else cur.toInt := by
  rw [mergeNonNegative_sext32, apply_ite BitVec.toInt]

/-- The report is there exactly when `verbose` is set (41_config.md R147). -/
theorem reportConfig_trace (s : State) :
    reportConfig s =
      { s with trace := s.trace ++ (if s.cfg.verbose = true then [.diag .config] else []) } := by
  cases hv : s.cfg.verbose with
  | true => simp [reportConfig, hv, State.emit]
  | false => simp [reportConfig, hv]

/-- CFGMERGE changes the configuration, `PHASE`, `CAUSE` and `RESULT`, and reports by the merged `verbose` (41_config.md
R147, R149). -/
theorem acceptCfgmerge_eq (s : State) :
    acceptCfgmerge s =
      { s with
        phaseReg := 0#3
        cause := .done
        result := 0#32
        cfg := mergeConfig s.args s.cfg
        trace := s.trace ++ (if (mergeConfig s.args s.cfg).verbose = true then [.diag .config] else []) } := by
  rw [acceptCfgmerge, reportConfig_trace]
  rfl

/-! ### A merge of what CFGRD read -/

theorem flagBit_toNat (b : Bool) : (flagBit 32 b).toNat = b.toNat := by cases b <;> rfl

/-- A field narrower than a word is read back from its operand as the number it is (41_config.md R150). -/
theorem sext32_setWidth {n : Nat} (hn : n < 32) (x : BitVec n) : sext32 (x.setWidth 32) = (x.toNat : Int) := by
  have hx : 2 * x.toNat < 2 ^ 32 := by
    have hpow : 2 ^ n ≤ 2 ^ 31 := Nat.pow_le_pow_right (by decide) (by omega)
    have hlt := x.isLt
    omega
  have hw : (x.setWidth 32).toNat = x.toNat := BitVec.toNat_setWidth_of_le (by omega)
  rw [sext32, BitVec.toInt_eq_toNat_of_lt (by rwa [hw]), hw]

theorem ofInt_sext32_setWidth {n : Nat} (hn : n < 32) (x : BitVec n) : BitVec.ofInt n (sext32 (x.setWidth 32)) = x := by
  rw [sext32_setWidth hn, BitVec.ofInt_natCast, BitVec.ofNat_toNat, BitVec.setWidth_eq]

theorem mergeFlag_self (b : Bool) : mergeFlag (sext32 (flagBit 32 b)) b = b := by cases b <;> rfl

/-- A field that is merged with its own value keeps it, by whichever branch of its test. -/
theorem mergeConfig_configArgs (c : SamplingConfig) : mergeConfig (configArgs c) c = c := by
  have hdec : mergeDecimation (sext32 (c.decimation.setWidth 32)) c.decimation = c.decimation := by
    rw [mergeDecimation, ofInt_sext32_setWidth (by decide), ite_self]
  have hbits : mergeBitsPerSample (sext32 (c.bitsPerSample.setWidth 32)) c.bitsPerSample = c.bitsPerSample := by
    rw [mergeBitsPerSample, ofInt_sext32_setWidth (by decide), ite_self]
  have hdiv : mergeDivisor (sext32 (c.divisor.setWidth 32)) c.divisor = c.divisor := by
    rw [mergeDivisor, ofInt_sext32_setWidth (by decide), ite_self]
  simp only [mergeConfig, configArgs, hdec, hbits, hdiv, mergeFlag_self, mergeNonNegative_sext32, ite_self]

end Sys2Proof.Machine

open Sys2Proof Sys2Proof.Machine

/-- Settles O15: the merged configuration, field by field. -/
theorem cfgmergeMergesEachFieldByItself : Obligations.CfgmergeMergesEachFieldByItself := by
  intro s hb
  refine ⟨mergeConfig s.args s.cfg, ?_, mergeDecimation_toNat _ _, mergeBitsPerSample_toNat _ _, rfl,
    mergeDivisor_toNat _ _, mergeNonNegative_toInt _ _, mergeNonNegative_toInt _ _, rfl⟩
  rw [exec_of_idle .cfgmerge s hb, acceptance, acceptCfgmerge_eq]
  rfl

/-- Settles O16: the operands CFGRD writes, each as wide as a word. -/
theorem cfgrdCopiesTheFieldsToArg : Obligations.CfgrdCopiesTheFieldsToArg := by
  intro s hb
  exact ⟨configArgs s.cfg, exec_of_idle .cfgrd s hb, BitVec.toNat_setWidth_of_le (by decide),
    BitVec.toNat_setWidth_of_le (by decide), flagBit_toNat _, BitVec.toNat_setWidth_of_le (by decide), rfl, rfl,
    flagBit_toNat _⟩

/-- Settles O17: CFGRD leaves the block idle, so that the merge of what it read is accepted. The domains decide by which
branch a test keeps its field, not whether it does, so their premise is not needed. -/
theorem cfgrdThenCfgmergeChangesNoField : Obligations.CfgrdThenCfgmergeChangesNoField := by
  intro s hb _
  refine ⟨_, _, exec_of_idle .cfgrd s hb, exec_of_idle .cfgmerge _ hb, ?_⟩
  rw [acceptance, acceptCfgmerge_eq]
  exact mergeConfig_configArgs s.cfg

end

section
/-! One iteration of the ACQ family as an equation for each case: the abort, the race check, GATE, SKIP and the budget
test (42_acquire.md R162 to R176). -/

namespace Sys2Proof.Machine

/-! ### The lines of the iteration -/

theorem acqFamily_of_named {i : Instr} (hi : i = .acq ∨ i = .readlf ∨ i = .reader ∨ i = .sniff) :
    i.acqFamily = true := by
  rcases hi with rfl | rfl | rfl | rfl <;> rfl

/-- A poll iteration of a call of the ACQ family is one iteration of the generic engine (43_frontend.md R206). -/
theorem pollIteration_of_acqFamily (w : BitVec 12) {s : State} {i : Instr} (hb : s.busy = true) (hop : s.op = i.opcode)
    (hi : i.acqFamily = true) : pollIteration w s = (iterateAcquisition (decodeInput w) s).finish := by
  rw [pollIteration_of_op w s i hb hop, runEngine_acqFamily i _ s hi]

theorem iterateAcquisition_of_abort {inp : Input} (h : inp.abort = true) (s : State) :
    iterateAcquisition inp s = .terminate .userAbort s := by
  simp [iterateAcquisition, h]

theorem iterateAcquisition_of_no_abort {inp : Input} (h : inp.abort = false) (s : State) :
    iterateAcquisition inp s = (raceCheck inp s).andThen (kickAndProcess inp) := by
  simp [iterateAcquisition, h]

/-! ### The race check (42_acquire.md R166) -/

theorem raceCheck_of_not_armed (inp : Input) {s : State} (ha : s.acq.armed = false) : raceCheck inp s = .pass s := by
  simp [raceCheck, ha]

theorem raceCheck_before_period (inp : Input) {s : State} (ha : s.acq.armed = true)
    (hn : s.acq.raceCnt + 1#32 ≠ s.params.racePeriod) :
    raceCheck inp s = .pass { s with acq := { s.acq with raceCnt := s.acq.raceCnt + 1#32 } } := by
  simp [raceCheck, ha, hn]

theorem raceCheck_at_period (inp : Input) {s : State} (ha : s.acq.armed = true)
    (hn : s.acq.raceCnt + 1#32 = s.params.racePeriod) :
    raceCheck inp s =
      if inp.dataAvail then .terminate .raceAbort { s with acq := { s.acq with raceCnt := 0#32 } }
      else .pass { s with acq := { s.acq with raceCnt := 0#32 } } := by
  simp [raceCheck, ha, hn]

/-! ### The trigger gate (42_acquire.md R170 to R173) -/

theorem inBand_iff (thr : Word) (x : Byte) :
    inBand thr x = true ↔ -thr.toInt ≤ (x.toNat : Int) - 128 ∧ (x.toNat : Int) - 128 ≤ thr.toInt := by
  simp [inBand, deviation, Config.mid]

/-- An armed gate uses up a sample in the band; with a cancel limit it counts the sample, and gives up at the limit. -/
theorem gate_of_inBand {x : Byte} {s : State} (ha : s.acq.armed = true) (hx : inBand s.lat.thr x = true) :
    gate x s =
      if s.lat.cancel = 0#32 then .discard s
      else if s.acq.cancelCnt + 1#32 = s.lat.cancel then
        .terminate .noSignal { s with acq := { s.acq with cancelCnt := s.acq.cancelCnt + 1#32 } }
      else .discard { s with acq := { s.acq with cancelCnt := s.acq.cancelCnt + 1#32 } } := by
  simp [gate, ha, hx]

/-- A gate that is not armed, or sees a sample outside the band, lets the sample through. -/
theorem gate_of_open {x : Byte} {s : State} (h : s.acq.armed = false ∨ inBand s.lat.thr x = false) :
    gate x s = .pass { s with acq := { s.acq with armed := false } } := by
  rcases gate_cases x s with hg | ⟨ha, hx, -⟩
  · exact hg
  · simp [ha, hx] at h

/-- An armed gate lets exactly the samples outside the band through. -/
theorem gate_passes_iff {x : Byte} {s : State} (ha : s.acq.armed = true) :
    (∃ t, gate x s = .pass t) ↔ inBand s.lat.thr x = false := by
  constructor
  · rintro ⟨t, ht⟩
    rw [← Bool.not_eq_true]
    intro hx
    rw [gate_of_inBand ha hx] at ht
    split_ifs at ht
  · intro hx
    exact ⟨_, gate_of_open (.inr hx)⟩

/-! ### A delivered sample (42_acquire.md R167, R168, R176) -/

theorem skipSample_of_pos {s : State} (h : 0 < s.acq.skipLeft.toInt) :
    skipSample s = .discard { s with acq := { s.acq with skipLeft := s.acq.skipLeft - 1#32 } } := by
  simp [skipSample, h]

theorem skipSample_of_nonpos {s : State} (h : s.acq.skipLeft.toInt ≤ 0) : skipSample s = .pass s := by
  simp [skipSample, Int.not_lt.2 h]

theorem processSample_of_no_budget (x : Byte) {s : State} (h : s.acq.remainingBudget = 0#32) :
    processSample x s = .terminate .done s := by
  simp [processSample, h]

theorem processSample_of_budget (x : Byte) {s : State} (h : s.acq.remainingBudget ≠ 0#32) :
    processSample x s = ((gate x s).andThen skipSample).andThen (decimate x) := by
  simp [processSample, h]

end Sys2Proof.Machine

open Sys2Proof Sys2Proof.Machine

/-- Settles O22: the abort is the first line of the iteration, and the terminating step takes the state as it is. -/
theorem abortEndsAnAcquisitionAtOnce : Obligations.AbortEndsAnAcquisitionAtOnce := by
  intro s i w hb hop hi habort
  rw [pollIteration_of_acqFamily w hb hop (acqFamily_of_named hi), iterateAcquisition_of_abort habort, finish_terminate]

/-- Settles O23: the race check ends the call or goes on with the count `n`, and the lines behind it kick and, with a
sample ready, process it. -/
theorem raceCheckEveryPeriodWhileArmed : Obligations.RaceCheckEveryPeriodWhileArmed := by
  intro s i w hb hop hi habort
  rw [pollIteration_of_acqFamily w hb hop (acqFamily_of_named hi), iterateAcquisition_of_no_abort habort]
  refine ⟨fun ha hn hdata => ?raceAbort, fun n hn => ?goesOn⟩
  case raceAbort =>
    rw [raceCheck_at_period _ ha hn, if_pos hdata, andThen_terminate, finish_terminate]
  case goesOn =>
    have hpass : raceCheck (decodeInput w) s = .pass { s with acq := { s.acq with raceCnt := n } } := by
      rcases hn with ⟨ha, hper, hdata, rfl⟩ | ⟨ha, hper, rfl⟩ | ⟨ha, rfl⟩
      · rw [raceCheck_at_period _ ha hper, hdata]; rfl
      · exact raceCheck_before_period _ ha hper
      · exact raceCheck_of_not_armed _ ha
    rw [hpass, andThen_pass]
    refine ⟨fun hready => ?_, fun hready => ?_⟩
    · rw [kickAndProcess_of_not_ready _ _ hready]; rfl
    · rw [kickAndProcess_of_ready _ _ hready]; rfl

/-- Settles O24: the lines of PROCESS in order, by the budget, the gate and the samples left to skip. -/
theorem sampleGoesThroughGateAndSkip : Obligations.SampleGoesThroughGateAndSkip := by
  rintro s x dev rfl
  refine ⟨processSample_of_no_budget x, fun hbudget ha hdev => ?closed, fun hbudget hopen => ?opened⟩
  case closed =>
    rw [processSample_of_budget x hbudget, gate_of_inBand ha ((inBand_iff _ _).2 hdev)]
    refine ⟨fun hc => ?_, fun hc hcnt => ?_, fun hc hcnt => ?_⟩
    · rw [if_pos hc]; rfl
    · rw [if_neg hc, if_neg hcnt]; rfl
    · rw [if_neg hc, if_pos hcnt]; rfl
  case opened =>
    rw [← inBand_iff, Bool.not_eq_true] at hopen
    rw [processSample_of_budget x hbudget, gate_of_open hopen, andThen_pass]
    refine ⟨fun hskip => ?_, fun hskip => ?_⟩
    · rw [skipSample_of_pos, andThen_discard]; exact hskip
    · rw [skipSample_of_nonpos, andThen_pass]; exact hskip

/-- Settles O25: a deviation lies between -128 and 127, and only that of the sample 0 is -128. -/
theorem extremeThresholdsNeverFire : Obligations.ExtremeThresholdsNeverFire := by
  intro s x ha
  have hx := x.isLt
  refine ⟨fun hthr t ht => ?never, fun hthr => ?zero⟩
  case never =>
    have hband : inBand s.lat.thr x = true := (inBand_iff _ _).2 (by omega)
    have hout := (gate_passes_iff ha).1 ⟨t, ht⟩
    simp [hband] at hout
  case zero =>
    rw [gate_passes_iff ha, ← Bool.not_eq_true, inBand_iff, hthr, eq_zero_iff_toNat]
    omega

end

section
/-! DECIM over a group, and LOG on both of its paths (42_acquire.md R178 to R183). -/

namespace Sys2Proof.Machine

/-! ### The decimator (42_acquire.md R178) -/

/-- The state after DECIM has counted the samples `xs` into a group it did not complete. -/
def counted (xs : List Byte) (s : State) : State :=
  { s with
    acq := { s.acq with
      decCounter := s.acq.decCounter + BitVec.ofNat 32 xs.length
      runningSum := s.acq.runningSum + BitVec.ofNat 40 (xs.map BitVec.toNat).sum } }

theorem decimate_inside_group (x : Byte) {s : State} (h : s.acq.decCounter.toNat + 1 < s.lat.dec.toNat) :
    decimate x s = .discard (counted [x] s) := by
  have hdec : 1 < s.lat.dec.toNat := by omega
  have hn : (s.acq.decCounter + 1#32).toNat < s.lat.dec.toNat := by
    rwa [toNat_succ_of_lt (m := s.lat.dec) (by omega)]
  have hx : BitVec.ofNat 40 x.toNat = x.setWidth 40 := BitVec.ofNat_toNat 40 x
  simp only [decimate, if_pos hdec, if_pos hn]
  simp [counted, hx]

/-- The last sample of a group logs the group's value, with the counter and the accumulator cleared. -/
theorem decimate_at_group_end (x : Byte) {s : State} (h : s.acq.decCounter.toNat + 1 = s.lat.dec.toNat) :
    decimate x s =
      logValue (groupValue s.lat (s.acq.runningSum + x.setWidth 40) x)
        { s with acq := { s.acq with decCounter := 0#32, runningSum := 0#40 } } := by
  have hn : (s.acq.decCounter + 1#32).toNat = s.lat.dec.toNat := by
    rw [toNat_succ_of_lt (m := s.lat.dec) (by omega), h]
  by_cases hdec : 1 < s.lat.dec.toNat
  · simp [decimate, closeGroup, hdec, hn]
  · have h0 : s.acq.decCounter = 0#32 := (eq_zero_iff_toNat _).2 (by omega)
    simp [decimate, closeGroup, hdec, h0]

theorem feedDecimator_inside_group (xs : List Byte) (s : State)
    (h : s.acq.decCounter.toNat + xs.length < s.lat.dec.toNat) : feedDecimator xs s = some (counted xs s) := by
  induction xs generalizing s with
  | nil => simp [feedDecimator, counted]
  | cons x xs ih =>
    rw [List.length_cons] at h
    have hcount : (counted [x] s).acq.decCounter.toNat = s.acq.decCounter.toNat + 1 :=
      toNat_succ_of_lt (m := s.lat.dec) (by omega)
    have hrest : counted xs (counted [x] s) = counted (x :: xs) s := by
      simp [counted, BitVec.add_assoc, BitVec.ofNat_add, BitVec.add_comm 1#32]
    simp only [feedDecimator, decimate_inside_group x (show s.acq.decCounter.toNat + 1 < s.lat.dec.toNat by omega)]
    rw [ih _ (by rw [hcount]; simp only [counted]; omega), hrest]

theorem sum_toNat_le (xs : List Byte) : (xs.map BitVec.toNat).sum ≤ xs.length * 255 := by
  have h := List.sum_le_card_nsmul (xs.map BitVec.toNat) 255 fun n hn => by
    obtain ⟨x, -, rfl⟩ := List.mem_map.1 hn
    have := x.isLt
    omega
  simpa using h

/-- The value of a group whose sum does not overflow a mean byte. -/
theorem groupValue_toNat (lat : Latches) (sum : BitVec 40) (x : Byte) (h : sum.toNat ≤ 255 * lat.dec.toNat) :
    (groupValue lat sum x).toNat =
      if lat.avg = true ∧ 1 < lat.dec.toNat then sum.toNat / lat.dec.toNat else x.toNat := by
  unfold groupValue
  split
  · have hmean : sum.toNat / lat.dec.toNat ≤ 255 := Nat.div_le_of_le_mul (by rwa [Nat.mul_comm])
    rw [BitVec.toNat_ofNat, Nat.mod_eq_of_lt (by omega)]
  · rfl

/-! ### Whole bytes as bits -/

theorem bufBit_write {m : Memory} (hwf : m.wf = true) (a : Nat) (v : Byte) (p : Nat) :
    bufBit (m.write a v) p = if p / 8 = a then v.getLsbD (7 - p % 8) else bufBit m p := by
  simp only [bufBit, Memory.read_write m a _ v hwf]
  split <;> rfl

/-- Buffers in canonical form with the same bits are equal. -/
theorem Memory.ext_of_bufBit {m n : Memory} (hm : m.wf = true) (hn : n.wf = true) (h : ∀ p, bufBit m p = bufBit n p) :
    m = n := by
  refine Memory.ext_of_read m n hm hn fun a => BitVec.eq_of_getLsbD_eq fun j hj => ?_
  have hbyte : (8 * a + (7 - j)) / 8 = a := by omega
  have hbit : 7 - (8 * a + (7 - j)) % 8 = j := by omega
  have hp := h (8 * a + (7 - j))
  simpa only [bufBit, hbyte, hbit] using hp

/-- The top bits of a value, written from bit `p` on: most significant first, every other bit as it was (42_acquire.md
R181). -/
theorem bufBit_writeBits_topBits {m : Memory} (hwf : m.wf = true) (p n q : Nat) (v : Byte) :
    bufBit (m.writeBits p (topBits v n)) q =
      if p ≤ q ∧ q < p + n then v.getLsbD (7 - (q - p)) else bufBit m q := by
  by_cases hq : q < p
  · rw [bufBit_writeBits_of_lt hwf hq, if_neg (by omega)]
  · obtain ⟨k, rfl⟩ := Nat.exists_eq_add_of_le (Nat.le_of_not_lt hq)
    rw [bufBit_writeBits_add hwf]
    by_cases hk : k < n
    · simp [topBits, hk]
    · simp [topBits, hk]

/-- All eight bits of a value, written at a byte boundary, are that byte. -/
theorem writeBits_topBits_eq_write {m : Memory} (hwf : m.wf = true) (a : Nat) (v : Byte) :
    m.writeBits (a * 8) (topBits v 8) = m.write a v := by
  refine Memory.ext_of_bufBit (Memory.writeBits_wf hwf _ _) (Memory.write_wf _ _ _ hwf) fun q => ?_
  rw [bufBit_writeBits_topBits hwf, bufBit_write hwf]
  by_cases hq : q / 8 = a
  · have hplace : q - a * 8 = q % 8 := by omega
    rw [if_pos (by omega), if_pos hq, hplace]
  · rw [if_neg (by omega), if_neg hq]

/-! ### LOG (42_acquire.md R180 to R183) -/

theorem AcqInv.position_eq {s : State} (hi : AcqInv s) :
    s.bp.position.toNat = s.acq.totalAccepted.toNat * s.lat.bps.toNat := by
  rw [hi.cursor, hi.bits]

/-- The next value of a running call fits the buffer behind the cursor. -/
theorem AcqInv.value_fits {s : State} (hi : AcqInv s) (hl : s.acq.remainingBudget ≠ 0#32) :
    s.bp.position.toNat + s.lat.bps.toNat ≤ 8 * s.cap := by
  have hle : s.acq.totalAccepted.toNat + 1 ≤ s.cap := hi.accepted_succ hl ▸ hi.logged_le hl
  calc s.bp.position.toNat + s.lat.bps.toNat
      = (s.acq.totalAccepted.toNat + 1) * s.lat.bps.toNat := by rw [hi.position_eq, Nat.add_mul, Nat.one_mul]
    _ ≤ s.cap * 8 := Nat.mul_le_mul hle hi.bps_le
    _ = 8 * s.cap := Nat.mul_comm _ _

/-- The state after LOG has stored the value `v` bit by bit. -/
def stored (v : Byte) (s : State) : State :=
  { s with
    buf := s.buf.writeBits s.bp.position.toNat (topBits v s.lat.bps.toNat)
    acq := { s.acq with totalAccepted := s.acq.totalAccepted + 1#32 }
    bp :=
      { position := BitVec.ofNat 32 (s.bp.position.toNat + s.lat.bps.toNat)
        numBits := BitVec.ofNat 32 (s.bp.position.toNat + s.lat.bps.toNat) } }

theorem storeBits_eq_stored (v : Byte) {s : State} (hi : AcqInv s) (hl : s.acq.remainingBudget ≠ 0#32) :
    storeBits v s = .ok (stored v s) := by
  have hfit := hi.value_fits hl
  have hpos : s.bp.position + BitVec.ofNat 32 s.lat.bps.toNat =
      BitVec.ofNat 32 (s.bp.position.toNat + s.lat.bps.toNat) := by
    rw [BitVec.ofNat_add, BitVec.ofNat_toNat 32 s.bp.position, BitVec.setWidth_eq]
  simp only [storeBits, bpwAll_eq_writeBits (topBits v s.lat.bps.toNat) s (by rwa [topBits_length]), topBits_length,
    ← hi.cursor, hpos, stored]

/-- With 8 bits a sample the cursor stands at a byte boundary, so the eight bits are the byte of the fast path. -/
theorem storeByte_eq_stored (v : Byte) {s : State} (hi : AcqInv s) (hwf : s.buf.wf = true) (h8 : s.lat.bps = 8#4)
    (hl : s.acq.remainingBudget ≠ 0#32) : storeByte v s = .ok (stored v s) := by
  have hbps : s.lat.bps.toNat = 8 := by rw [h8]; rfl
  have hpos : s.bp.position.toNat = s.acq.totalAccepted.toNat * 8 := by rw [hi.position_eq, hbps]
  have hsucc := hi.accepted_succ hl
  have hle := hi.logged_le hl
  have hend : (s.acq.totalAccepted + 1#32) * 8#32 = BitVec.ofNat 32 (s.acq.totalAccepted.toNat * 8 + 8) := by
    rw [← Nat.add_one_mul, ← hsucc, BitVec.ofNat_mul, BitVec.ofNat_toNat, BitVec.setWidth_eq]
  simp only [storeByte, memWrite_of_lt s s.acq.totalAccepted.toNat v (by omega), hend, stored, hbps, hpos,
    writeBits_topBits_eq_write hwf]

theorem storeSample_eq_stored (v : Byte) {s : State} (hi : AcqInv s) (hwf : s.buf.wf = true)
    (hl : s.acq.remainingBudget ≠ 0#32) : storeSample v s = .ok (stored v s) := by
  unfold storeSample
  split
  · exact storeByte_eq_stored v hi hwf ‹_› hl
  · exact storeBits_eq_stored v hi hl

/-- The budget is used up by the sample that finds it at 1. -/
theorem countBudget_eq (s : State) :
    countBudget s =
      if s.acq.remainingBudget = 1#32 then
        .terminate .done { s with acq := { s.acq with remainingBudget := s.acq.remainingBudget - 1#32 } }
      else .pass { s with acq := { s.acq with remainingBudget := s.acq.remainingBudget - 1#32 } } := by
  have hlast : s.acq.remainingBudget - 1#32 = 0#32 ↔ s.acq.remainingBudget = 1#32 := sub_eq_zero
  simp only [countBudget, hlast]

end Sys2Proof.Machine

open Sys2Proof Sys2Proof.Machine

/-- Settles O26: the samples before the last are counted from a cleared accumulator, and the last one finds the group
one short. -/
theorem decimatorLogsOneValuePerGroup : Obligations.DecimatorLogsOneValuePerGroup := by
  intro s xs x hcnt hsum hlen
  have hdec := s.lat.dec.isLt
  have hx := x.isLt
  have hbytes := sum_toNat_le xs
  have htotal : ((counted xs s).acq.runningSum + x.setWidth 40).toNat = (xs.map BitVec.toNat).sum + x.toNat := by
    simp only [counted, hsum, BitVec.zero_add, BitVec.toNat_add, BitVec.toNat_ofNat, BitVec.toNat_setWidth]
    omega
  refine ⟨counted xs s, groupValue s.lat ((counted xs s).acq.runningSum + x.setWidth 40) x, ?fed, ?counters, ?value,
    ?logs⟩
  case fed => exact feedDecimator_inside_group xs s (by rw [hcnt]; simp; omega)
  case counters => simp [counted, hcnt, hsum]
  case value => rw [groupValue_toNat _ _ _ (by rw [htotal]; omega), htotal]
  case logs =>
    have hlast : (counted xs s).acq.decCounter.toNat + 1 = (counted xs s).lat.dec.toNat := by
      simp only [counted, hcnt, BitVec.zero_add, BitVec.toNat_ofNat]
      omega
    rw [decimate_at_group_end x hlast]
    simp only [counted, ← hcnt, ← hsum]

/-- Settles O28: both paths store the same state. -/
theorem fastPathEqualsBitByBitPath : Obligations.FastPathEqualsBitByBitPath := by
  intro s v hi hwf h8 hl
  rw [storeByte_eq_stored v hi hwf h8 hl, storeBits_eq_stored v hi hl]

/-- Settles O27: the store on either path replaces the bits at the cursor, and the budget decides how LOG ends. -/
theorem logPacksTheTopBits : Obligations.LogPacksTheTopBits := by
  intro s v hi hwf hl
  refine ⟨_, _, Memory.writeBits_wf hwf s.bp.position.toNat (topBits v s.lat.bps.toNat),
    fun p => bufBit_writeBits_topBits hwf _ _ p v, rfl, ?_⟩
  rw [logValue, storeSample_eq_stored v hi hwf hl, ofAccess_ok, andThen_pass, countBudget_eq]
  rfl

end

section
/-! Inputs that an engine does not read (42_acquire.md R165), and the offset remover's region (42_acquire.md R184). -/

namespace Sys2Proof.Machine

/-! ### Inputs an engine does not read -/

/-- Two inputs that every engine reads alike, `dataAvail` apart: the same abort, and the same sample or none. -/
structure SameDelivery (a b : Input) : Prop where
  abort : a.abort = b.abort
  rxReady : a.rxReady = b.rxReady
  sample : a.rxReady = true → a.sample = b.sample

/-- The end of an iteration of every engine: with a sample ready one line reads the sample, without one another line
does not. -/
theorem SameDelivery.delivered {a b : Input} (h : SameDelivery a b) (k : Byte → State → Flow) (f : Flow)
    (t : State) :
    (if a.rxReady = true then k a.sample t else f) = (if b.rxReady = true then k b.sample t else f) := by
  rw [← h.rxReady]
  split
  · rw [h.sample ‹_›]
  · rfl

theorem kickAndProcess_congr {a b : Input} (h : SameDelivery a b) : kickAndProcess a = kickAndProcess b :=
  funext fun _ => h.delivered processSample _ _

theorem raceCheck_congr {a b : Input} (h : a.dataAvail = b.dataAvail) : raceCheck a = raceCheck b := by
  funext s
  simp only [raceCheck, h]

theorem iterateAcquisition_congr {a b : Input} (h : SameDelivery a b) (hd : a.dataAvail = b.dataAvail) (s : State) :
    iterateAcquisition a s = iterateAcquisition b s := by
  simp only [iterateAcquisition, h.abort, raceCheck_congr hd, kickAndProcess_congr h]

theorem iterateEdge_congr {a b : Input} (h : SameDelivery a b) (s : State) : iterateEdge a s = iterateEdge b s := by
  simp only [iterateEdge, h.abort, h.delivered edgeSample]

theorem iterateManchester_congr (data : Byte → State → Flow) {a b : Input} (h : SameDelivery a b) (s : State) :
    iterateManchester data a s = iterateManchester data b s := by
  simp only [iterateManchester, h.abort, h.delivered (manSample data)]

/-- Only the ACQ family reads `dataAvail`, and no engine reads `txReady`. -/
theorem iterate_congr (i : Instr) {a b : Input} (h : SameDelivery a b)
    (hd : i.acqFamily = true → a.dataAvail = b.dataAvail) (s : State) : iterate i a s = iterate i b s := by
  cases i with
  | acq => exact iterateAcquisition_congr h (hd rfl) s
  | readlf => exact iterateAcquisition_congr h (hd rfl) s
  | reader => exact iterateAcquisition_congr h (hd rfl) s
  | sniff => exact iterateAcquisition_congr h (hd rfl) s
  | edge => exact iterateEdge_congr h s
  | mfill => exact iterateManchester_congr fillData h s
  | mbits => exact iterateManchester_congr bitsData h s
  | cfgmerge => rfl
  | cfgrd => rfl
  | arm => rfl

/-! ### The offset remover -/

theorem removeOffset_of_none {s : State} (h : s.postDue = none) : removeOffset s = s := by
  simp [removeOffset, h]

/-- The remover acts on a region inside the buffer as a whole. -/
theorem removeOffset_of_some {s : State} {n : Word} (h : s.postDue = some n) (hn : n.toNat ≤ s.cap) :
    removeOffset s =
      { s with
        buf := fillRegion (Config.postOffset (region s.buf n.toNat)) n.toNat s.buf
        postDue := none } := by
  simp [removeOffset, h, Nat.min_eq_left hn]

end Sys2Proof.Machine

open Sys2Proof Sys2Proof.Machine

/-- Settles O48: the engine in `OP` reads the two inputs alike. -/
theorem unreadInputsHaveNoEffect : Obligations.UnreadInputsHaveNoEffect := by
  intro s v w habort hready hsample hdata
  cases hb : s.busy with
  | false => rw [pollIteration_of_idle v s hb, pollIteration_of_idle w s hb]
  | true =>
    cases hi : decodeOpcode s.op with
    | none => simp only [pollIteration, hi]
    | some i =>
      have hop := opcode_of_decodeOpcode s.op i hi
      rw [pollIteration_of_op v s i hb hop, pollIteration_of_op w s i hb hop, runEngine_eq_finish, runEngine_eq_finish,
        iterate_congr i ⟨habort, hready, hsample⟩ fun hacq => hdata (opIs_of_op _ s i hop ▸ hacq)]

/-- Settles O54: the move fills the region that is due, and a read of the filled buffer is the new byte inside it and
the old one outside. -/
theorem offsetRemovalStaysInItsRegion : Obligations.OffsetRemovalStaysInItsRegion := by
  intro s rest hp hwf
  have hstep : step s = .next (removeOffset { s with pending := rest }) := step_of_pending_cons s _ rest hp
  refine ⟨fun hdue => ?nothing, fun n hdue hn => ?region⟩
  case nothing => rw [hstep, removeOffset_of_none]; exact hdue
  case region =>
    refine ⟨fillRegion (Config.postOffset (region s.buf n.toNat)) n.toNat s.buf, ?_, fun a =>
      fillRegion_read _ n.toNat a s.buf hwf⟩
    rw [hstep, removeOffset_of_some (n := n)]
    · exact hdue
    · exact hn

end

section
/-! One iteration of EDGE as an equation for each case: the tests at its top, the rule of each state, and a run of
discarded samples (44_edge_capture.md R222 to R232). -/

namespace Sys2Proof.Machine

/-! ### The tests at the top of the iteration (44_edge_capture.md R222) -/

theorem pollIteration_of_edge (w : BitVec 12) {s : State} (hb : s.busy = true) (hop : s.op = Instr.edge.opcode) :
    pollIteration w s = (iterateEdge (decodeInput w) s).finish := by
  rw [pollIteration_of_op w s .edge hb hop, runEngine_edge]

theorem iterateEdge_at_limit (inp : Input) {s : State} (hlim : s.lat.limit.toNat ≤ s.idx.toNat) :
    iterateEdge inp s = .terminate .done s := if_pos hlim

theorem iterateEdge_at_skipMax (inp : Input) {s : State} (hlim : s.idx.toNat < s.lat.limit.toNat)
    (hskip : Config.edgeSkipMax ≤ s.edge.skipCnt.toNat) : iterateEdge inp s = .terminate .noEdge s := by
  rw [iterateEdge, if_neg (Nat.not_le.2 hlim), if_pos hskip]

/-- Below the limit and the discards' bound an iteration goes by its input: the abort, else the kick and the sample. -/
theorem iterateEdge_inside (inp : Input) {s : State} (hlim : s.idx.toNat < s.lat.limit.toNat)
    (hskip : s.edge.skipCnt.toNat < Config.edgeSkipMax) :
    iterateEdge inp s =
      if inp.abort then .terminate .userAbort s
      else if inp.rxReady then edgeSample inp.sample (s.emit .wdtKick).consumeSample
      else .pass (s.emit .wdtKick) := by
  rw [iterateEdge, if_neg (Nat.not_le.2 hlim), if_neg (Nat.not_le.2 hskip)]

/-- The state in which the rule of a delivered sample runs: kicked, and the sample taken (R222 lines 4 and 5). -/
def State.delivered (s : State) : State := (s.emit .wdtKick).consumeSample

theorem delivered_eq (s : State) :
    s.delivered = { s with trace := s.trace ++ [.wdtKick], samplesRead := s.samplesRead + 1 } := rfl

/-- An iteration that takes a sample is the rule of the current state, after the kick and the consumption. -/
theorem pollIteration_of_edge_sample {w : BitVec 12} {s : State} (hb : s.busy = true) (hop : s.op = Instr.edge.opcode)
    (hlim : s.idx.toNat < s.lat.limit.toNat) (hskip : s.edge.skipCnt.toNat < Config.edgeSkipMax)
    (habort : (decodeInput w).abort = false) (hready : (decodeInput w).rxReady = true) :
    pollIteration w s = (edgeSample (decodeInput w).sample s.delivered).finish := by
  rw [pollIteration_of_edge w hb hop, iterateEdge_inside _ hlim hskip, habort, hready]
  rfl

/-! ### The rule of each state (44_edge_capture.md R224 to R228) -/

/-- `SEEK_SKIP` and `SEEK_HIGH` have one rule (R224). -/
theorem edgeSample_of_seekHigh (x : Byte) (s : State) (h : s.phaseReg = 0#3 ∨ s.phaseReg = 1#3) :
    edgeSample x s = edgeSeekHigh x s := by
  rcases h with h | h <;> (rw [edgeSample, h]; rfl)

theorem edgeSample_of_seekLow (x : Byte) (s : State) (h : s.phaseReg = 2#3) : edgeSample x s = edgeSeekLow x s := by
  rw [edgeSample, h]; rfl

theorem edgeSample_of_preCollect (x : Byte) (s : State) (h : s.phaseReg = 3#3) :
    edgeSample x s = edgePreCollect x s := by
  rw [edgeSample, h]; rfl

theorem edgeSample_of_collecting (x : Byte) (s : State) (h : s.phaseReg = 4#3) : edgeSample x s = edgeCollect x s := by
  rw [edgeSample, h]; rfl

theorem edgeSeekHigh_of_crossing {x : Byte} (s : State) (h : 188 < x.toNat) :
    edgeSeekHigh x s = .pass { s with phaseReg := 2#3 } := if_pos h

theorem edgeSeekHigh_of_discard {x : Byte} (s : State) (h : x.toNat ≤ 188) :
    edgeSeekHigh x s = .pass { countSkip s with phaseReg := 1#3 } := if_neg (Nat.not_lt.2 h)

theorem edgeSeekLow_of_crossing {x : Byte} (s : State) (h : x.toNat < 68) :
    edgeSeekLow x s = .pass { s with edge := { s.edge with lastSample := x }, phaseReg := 3#3 } := if_pos h

theorem edgeSeekLow_of_discard {x : Byte} (s : State) (h : 68 ≤ x.toNat) :
    edgeSeekLow x s = .pass (countSkip s) := if_neg (Nat.not_lt.2 h)

/-- A sample that does not rise is counted, and remembered when it crosses low itself (R227). -/
theorem edgePreCollect_of_discard {x : Byte} (s : State) (h : x.toNat ≤ 73) :
    edgePreCollect x s =
      .pass
        { s with
          edge :=
            { lastSample := if x.toNat < 68 then x else s.edge.lastSample
              skipCnt := s.edge.skipCnt + 1#32 } } := by
  have hkeep := Nat.not_lt.2 h
  by_cases hlow : x.toNat < 68
  · rw [if_pos hlow]; exact (if_neg hkeep).trans (if_pos hlow)
  · rw [if_neg hlow]; exact (if_neg hkeep).trans (if_neg hlow)

/-- The transition is the remembered sample's write and the guarded write of the sample that caused it (R227). -/
theorem edgePreCollect_of_rise {x : Byte} (s : State) (h : 73 < x.toNat) :
    edgePreCollect x s =
      ((putByte s.edge.lastSample s).andThen (putTransition x)).andThen fun t => .pass { t with phaseReg := 4#3 } :=
  if_pos h

/-- With room for two bytes the rise writes both, the remembered one first. -/
theorem edgePreCollect_with_room {x : Byte} (s : State) (h : 73 < x.toNat)
    (hroom : s.idx.toNat + 1 < s.lat.limit.toNat) (hcap : s.lat.limit.toNat ≤ s.cap) :
    edgePreCollect x s =
      .pass
        { s with
          phaseReg := 4#3
          idx := s.idx + 2#32
          buf := (s.buf.write s.idx.toNat s.edge.lastSample).write (s.idx.toNat + 1) x } := by
  have hnext : (s.idx + 1#32).toNat = s.idx.toNat + 1 := toNat_succ_of_lt (m := s.lat.limit) (by omega)
  have hidx : s.idx + 1#32 + 1#32 = s.idx + 2#32 := BitVec.add_assoc s.idx 1#32 1#32
  rw [edgePreCollect_of_rise s h, putByte_of_lt _ s (by omega), andThen_pass, putTransition,
    if_pos (by rw [hnext]; exact hroom), putByte_of_lt x _ (by rw [hnext]; exact hroom.trans_le hcap)]
  simp only [hnext, hidx, andThen_pass]

/-- With room for one byte the rise writes the remembered sample only. -/
theorem edgePreCollect_at_limit {x : Byte} (s : State) (h : 73 < x.toNat)
    (hend : s.idx.toNat + 1 = s.lat.limit.toNat) (hcap : s.lat.limit.toNat ≤ s.cap) :
    edgePreCollect x s =
      .pass { s with phaseReg := 4#3, idx := s.idx + 1#32, buf := s.buf.write s.idx.toNat s.edge.lastSample } := by
  have hnext : (s.idx + 1#32).toNat = s.idx.toNat + 1 := toNat_succ_of_lt (m := s.lat.limit) (by omega)
  rw [edgePreCollect_of_rise s h, putByte_of_lt _ s (by omega), andThen_pass, putTransition,
    if_neg (by rw [hnext]; exact hend.not_lt), andThen_pass]

/-! ### A run of discarded samples (44_edge_capture.md R232) -/

/-- The state after EDGE has discarded `n` samples and come to the state `p`. -/
def afterDiscards (n : Nat) (p : BitVec 3) (s : State) : State :=
  { s with
    phaseReg := p
    edge := { s.edge with skipCnt := s.edge.skipCnt + BitVec.ofNat 32 n }
    trace := s.trace ++ List.replicate n .wdtKick
    samplesRead := s.samplesRead + n }

theorem afterDiscards_zero (s : State) : afterDiscards 0 s.phaseReg s = s := by
  simp [afterDiscards]

theorem afterDiscards_succ (n : Nat) (p q : BitVec 3) (s : State) :
    afterDiscards n p (afterDiscards 1 q s) = afterDiscards (n + 1) p s := by
  simp [afterDiscards, BitVec.add_assoc, BitVec.ofNat_add, BitVec.add_comm 1#32, Nat.add_assoc, Nat.add_comm 1 n,
    List.replicate_succ]

/-- An input that delivers a sample which is no high crossing. -/
def DeliversDiscard (w : BitVec 12) : Prop :=
  (decodeInput w).rxReady = true ∧ (decodeInput w).abort = false ∧ (decodeInput w).sample.toNat ≤ 188

theorem pollIteration_of_discard {w : BitVec 12} {s : State} (hw : DeliversDiscard w) (hb : s.busy = true)
    (hop : s.op = Instr.edge.opcode) (hp : s.phaseReg = 0#3 ∨ s.phaseReg = 1#3)
    (hlim : s.idx.toNat < s.lat.limit.toNat) (hskip : s.edge.skipCnt.toNat < Config.edgeSkipMax) :
    pollIteration w s = .next (afterDiscards 1 1#3 s) := by
  obtain ⟨hready, habort, hx⟩ := hw
  rw [pollIteration_of_edge_sample hb hop hlim hskip habort hready, edgeSample_of_seekHigh _ s.delivered hp,
    edgeSeekHigh_of_discard _ hx]
  rfl

/-- Up to the bound, every sample that is no high crossing is discarded and counted. -/
theorem polls_of_discards {ws : List (BitVec 12)} {s : State} (hws : ∀ v ∈ ws, DeliversDiscard v) (hb : s.busy = true)
    (hop : s.op = Instr.edge.opcode) (hp : s.phaseReg = 0#3 ∨ s.phaseReg = 1#3)
    (hlim : s.idx.toNat < s.lat.limit.toNat) (hskip : s.edge.skipCnt.toNat + ws.length ≤ 1000) :
    ∃ p, polls ws s = .next (afterDiscards ws.length p s) := by
  induction ws generalizing s with
  | nil => exact ⟨s.phaseReg, by rw [List.length_nil, afterDiscards_zero, polls_nil]⟩
  | cons w ws ih =>
    obtain ⟨hw, hrest⟩ := List.forall_mem_cons.1 hws
    rw [List.length_cons] at hskip
    have hlt : s.edge.skipCnt.toNat < (1000#32).toNat := by simp; omega
    have hcount : (afterDiscards 1 1#3 s).edge.skipCnt.toNat = s.edge.skipCnt.toNat + 1 := toNat_succ_of_lt hlt
    obtain ⟨p, hpolls⟩ := ih (s := afterDiscards 1 1#3 s) hrest hb hop (.inr rfl) hlim (by omega)
    refine ⟨p, ?_⟩
    rw [polls_cons_of_next _ _ _ _ (pollIteration_of_discard hw hb hop hp hlim hlt), hpolls, afterDiscards_succ,
      List.length_cons]

/-- EDGE returns the number of bytes written (44_edge_capture.md R230). -/
theorem resultOf_of_edge {s : State} (hop : s.op = Instr.edge.opcode) : resultOf s = s.idx := by
  simp [resultOf, opIs_of_op _ s .edge hop, Instr.acqFamily]

end Sys2Proof.Machine

open Sys2Proof Sys2Proof.Machine

/-- Settles O31: the acceptance of EDGE, its limit clamped. -/
theorem edgeStartsACall : Obligations.EdgeStartsACall := by
  intro s hb
  refine ⟨clampToCap s s.args.arg0, none, clampToCap_toNat s _, ?_⟩
  rw [exec_of_idle .edge s hb]
  rfl

/-- Settles O32: the limit, the discards, the abort and the sample are tested in this order. -/
theorem edgeIterationTests : Obligations.EdgeIterationTests := by
  intro s w hb hop
  rw [pollIteration_of_edge w hb hop]
  refine ⟨fun hlim => ?full, fun hlim hskip => ?noEdge, fun hlim hskip habort => ?aborted,
    fun hlim hskip habort hready => ?unready⟩
  case full => rw [iterateEdge_at_limit _ hlim, finish_terminate]
  case noEdge => rw [iterateEdge_at_skipMax _ hlim hskip, finish_terminate]
  case aborted => rw [iterateEdge_inside _ hlim hskip, if_pos habort, finish_terminate]
  case unready =>
    rw [iterateEdge_inside _ hlim hskip, habort, hready]
    rfl

/-- Settles O33: the iteration is the rule of the current state applied to `u`, and each rule goes by its threshold. -/
theorem edgeSampleRules : Obligations.EdgeSampleRules := by
  intro s u w x hb hop hlim hcap hskip habort hready hx hu
  subst hx
  obtain rfl : u = s.delivered := hu.trans (delivered_eq s).symm
  have hrule : ∀ t, edgeSample (decodeInput w).sample s.delivered = .pass t → pollIteration w s = .next t :=
    fun t ht => by
      rw [pollIteration_of_edge_sample hb hop hlim hskip habort hready, ht, finish_pass]
  refine ⟨fun hp h => hrule _ ?highFound, fun hp h => hrule _ ?highDiscard, fun hp h => hrule _ ?lowFound,
    fun hp h => hrule _ ?lowDiscard, fun hp h hroom => hrule _ ?riseWithRoom, fun hp h hend => hrule _ ?riseAtLimit,
    fun hp h => hrule _ ?preDiscard, fun hp => hrule _ ?collect⟩
  case highFound => exact (edgeSample_of_seekHigh _ s.delivered hp).trans (edgeSeekHigh_of_crossing _ h)
  case highDiscard => exact (edgeSample_of_seekHigh _ s.delivered hp).trans (edgeSeekHigh_of_discard _ h)
  case lowFound => exact (edgeSample_of_seekLow _ s.delivered hp).trans (edgeSeekLow_of_crossing _ h)
  case lowDiscard => exact (edgeSample_of_seekLow _ s.delivered hp).trans (edgeSeekLow_of_discard _ h)
  case riseWithRoom => exact (edgeSample_of_preCollect _ s.delivered hp).trans (edgePreCollect_with_room _ h hroom hcap)
  case riseAtLimit => exact (edgeSample_of_preCollect _ s.delivered hp).trans (edgePreCollect_at_limit _ h hend hcap)
  case preDiscard => exact (edgeSample_of_preCollect _ s.delivered hp).trans (edgePreCollect_of_discard _ h)
  case collect => exact (edgeSample_of_collecting _ s.delivered hp).trans (putByte_of_lt _ _ (hlim.trans_le hcap))

/-- Settles O34: the run of discards brings the count to 1000 and leaves `idx` and the buffer alone, so the second test
of the next iteration ends the call. -/
theorem edgeGivesUpAfterAThousandDiscards : Obligations.EdgeGivesUpAfterAThousandDiscards := by
  intro s ws w hb hop hp hidx hskip hlim hlen hws
  have hbelow : s.idx.toNat < s.lat.limit.toNat := by rw [hidx]; exact hlim
  obtain ⟨p, hpolls⟩ := polls_of_discards hws hb hop (.inl hp) hbelow (by rw [hskip, hlen]; decide)
  rw [hlen] at hpolls
  have hcount : Config.edgeSkipMax ≤ (afterDiscards 1000 p s).edge.skipCnt.toNat := by
    simp only [afterDiscards, hskip]; decide
  have hlast : pollIteration w (afterDiscards 1000 p s) = .next (terminateCall .noEdge (afterDiscards 1000 p s)) := by
    rw [pollIteration_of_edge (s := afterDiscards 1000 p s) w hb hop,
      iterateEdge_at_skipMax (s := afterDiscards 1000 p s) _ hbelow hcount, finish_terminate]
  refine ⟨terminateCall .noEdge (afterDiscards 1000 p s), ?_, terminateCall_busy _ _, terminateCall_cause _ _, ?result,
    terminateCall_buf _ _, terminateCall_samplesRead _ _⟩
  · rw [polls_append_of_next _ _ _ _ hpolls, polls_cons_of_next _ _ _ _ hlast, polls_nil]
  case result => rw [terminateCall_result, resultOf_of_edge (s := afterDiscards 1000 p s) hop, ← hidx]; rfl

end

section
/-! One iteration of MFILL and MBITS as an equation for each case: the tests at its top, the shared peak search, the
data rule of each variant, a run of noise, and a run inside a period of MBITS (45_manchester.md R240 to R257). -/

namespace Sys2Proof.Machine

/-! ### The tests at the top of the iteration (45_manchester.md R242) -/

/-- The rule of a data sample of each variant (R249, R256); no other command has one. -/
def dataRule : Instr → Byte → State → Flow
  | .mfill => fillData
  | _ => bitsData

/-- A call of the Manchester command `i` is running. -/
structure ManRunning (i : Instr) (s : State) : Prop where
  busy : s.busy = true
  op : s.op = i.opcode
  variant : i = .mfill ∨ i = .mbits

theorem ManRunning.poll_eq {i : Instr} {s : State} (h : ManRunning i s) (w : BitVec 12) :
    pollIteration w s = (iterateManchester (dataRule i) (decodeInput w) s).finish := by
  rw [pollIteration_of_op w s i h.busy h.op]
  rcases h.variant with rfl | rfl
  · exact runEngine_mfill _ _
  · exact runEngine_mbits _ _

theorem ManRunning.pollIteration_at_limit {i : Instr} {s : State} (h : ManRunning i s) (w : BitVec 12)
    (hlim : s.lat.limit.toNat ≤ s.idx.toNat) : pollIteration w s = .next (terminateCall .done s) := by
  rw [h.poll_eq, iterateManchester, if_pos hlim, finish_terminate]

theorem ManRunning.pollIteration_above_noiseMax {i : Instr} {s : State} (h : ManRunning i s) (w : BitVec 12)
    (hlim : s.idx.toNat < s.lat.limit.toNat) (hnoise : Config.noiseMax < s.man.noiseCnt.toNat) :
    pollIteration w s = .next (terminateCall .noiseTimeout s) := by
  rw [h.poll_eq, iterateManchester, if_neg (Nat.not_le.2 hlim), if_pos hnoise, finish_terminate]

/-- Below the limit and inside the noise bound an iteration goes by its input: the abort, else the kick and the
sample. -/
theorem iterateManchester_inside (data : Byte → State → Flow) (inp : Input) {s : State}
    (hlim : s.idx.toNat < s.lat.limit.toNat) (hnoise : s.man.noiseCnt.toNat ≤ 768) :
    iterateManchester data inp s =
      if inp.abort then .terminate .userAbort s
      else if inp.rxReady then manSample data inp.sample s.delivered
      else .pass (s.emit .wdtKick) :=
  (if_neg (Nat.not_le.2 hlim)).trans (if_neg (Nat.not_lt.2 hnoise))

/-- An input that delivers a sample and asks for no abort. -/
def Delivers (w : BitVec 12) : Prop := (decodeInput w).rxReady = true ∧ (decodeInput w).abort = false

/-- An iteration that takes a sample is the rule of the current state, after the kick and the consumption. -/
theorem ManRunning.pollIteration_of_sample {i : Instr} {s : State} (h : ManRunning i s) {w : BitVec 12}
    (hw : Delivers w) (hlim : s.idx.toNat < s.lat.limit.toNat) (hnoise : s.man.noiseCnt.toNat ≤ 768) :
    pollIteration w s = (manSample (dataRule i) (decodeInput w).sample s.delivered).finish := by
  rw [h.poll_eq, iterateManchester_inside _ _ hlim hnoise, hw.1, hw.2]
  rfl

/-- MFILL and MBITS return the number of bytes written (R253, R258). -/
theorem ManRunning.resultOf_eq {i : Instr} {s : State} (h : ManRunning i s) : resultOf s = s.idx := by
  rcases h with ⟨-, hop, rfl | rfl⟩ <;> simp [resultOf, opIs_of_op _ s _ hop, Instr.acqFamily]

/-! ### The peak search (45_manchester.md R244, R245) -/

theorem manSample_of_seekHigh (data : Byte → State → Flow) (x : Byte) (s : State) (h : s.phaseReg = 0#3) :
    manSample data x s = manSeekHigh x s := by
  rw [manSample, h]; rfl

theorem manSample_of_seekLow (data : Byte → State → Flow) (x : Byte) (s : State) (h : s.phaseReg = 1#3) :
    manSample data x s = manSeekLow x s := by
  rw [manSample, h]; rfl

theorem manSample_of_data (data : Byte → State → Flow) (x : Byte) (s : State) (h : s.phaseReg = 2#3) :
    manSample data x s = data x s := by
  rw [manSample, h]; rfl

theorem manSeekHigh_of_peak {x : Byte} (s : State) (h : 133 < x.toNat) :
    manSeekHigh x s =
      .pass
        { s with
          phaseReg := 1#3
          man := { s.man with noiseCnt := 0#32, hold := 255#8, prev := s.man.curr, curr := true } } := if_pos h

theorem manSeekHigh_of_noise {x : Byte} (s : State) (h : x.toNat ≤ 133) : manSeekHigh x s = .pass (countNoise s) :=
  if_neg (Nat.not_lt.2 h)

theorem manSeekLow_of_peak {x : Byte} (s : State) (h : x.toNat < 123) :
    manSeekLow x s =
      .pass
        { s with
          phaseReg := 2#3
          man := { noiseCnt := 0#32, hold := 0#8, prev := s.man.curr, curr := false, period := 384#32 } } := if_pos h

theorem manSeekLow_of_noise {x : Byte} (s : State) (h : 123 ≤ x.toNat) : manSeekLow x s = .pass (countNoise s) :=
  if_neg (Nat.not_lt.2 h)

/-! ### The data rules (45_manchester.md R249, R256) -/

/-- Inside the buffer a data sample of MFILL is one byte, written and held. -/
theorem fillData_of_lt (x : Byte) {s : State} (h : s.idx.toNat < s.cap) :
    fillData x s =
      .pass
        { s with
          buf := s.buf.write s.idx.toNat (quantize 255#8 0#8 x s.man.hold)
          idx := s.idx + 1#32
          man := { s.man with hold := quantize 255#8 0#8 x s.man.hold } } := by
  rw [fillData, putByte_of_lt _ s h, andThen_pass]

/-- A sample of MBITS that does not end the period moves the bit and the period only. -/
theorem bitsData_inside_period (x : Byte) {s : State} (h : 1 < s.man.period.toNat) :
    bitsData x s = .pass { s with man := { updateBit x s.man with period := s.man.period - 1#32 } } := by
  have hne : s.man.period - 1#32 ≠ 0#32 := by bv_omega
  rw [bitsData, updateBit_period, if_neg hne]

/-- The write goes by `idx` and the capacity, whatever the Manchester registers hold. -/
theorem putByte_with_man (v : Byte) (m : ManRegs) {s : State} (h : s.idx.toNat < s.cap) :
    putByte v { s with man := m } =
      .pass { s with man := m, buf := s.buf.write s.idx.toNat v, idx := s.idx + 1#32 } :=
  putByte_of_lt v { s with man := m } h

/-- The sample that ends a period of MBITS writes the current bit, this sample's update included. -/
theorem bitsData_at_period_end (x : Byte) {s : State} (h : s.man.period = 1#32) (hcap : s.idx.toNat < s.cap) :
    bitsData x s =
      .pass
        { s with
          buf := s.buf.write s.idx.toNat (flagBit 8 (updateBit x s.man).curr)
          idx := s.idx + 1#32
          man := { updateBit x s.man with period := 384#32 } } := by
  have hzero : s.man.period - 1#32 = 0#32 := by rw [h]; exact BitVec.sub_self 1#32
  rw [bitsData, updateBit_period, if_pos hzero, putByte_with_man _ _ hcap, andThen_pass]
  rfl

/-! ### A run of noise (45_manchester.md R246) -/

/-- The state after `n` samples that MFILL or MBITS counted as noise. -/
def afterNoise (n : Nat) (s : State) : State :=
  { s with
    man := { s.man with noiseCnt := s.man.noiseCnt + BitVec.ofNat 32 n }
    trace := s.trace ++ List.replicate n .wdtKick
    samplesRead := s.samplesRead + n }

theorem afterNoise_zero (s : State) : afterNoise 0 s = s := by
  simp [afterNoise]

theorem afterNoise_succ (n : Nat) (s : State) : afterNoise n (afterNoise 1 s) = afterNoise (n + 1) s := by
  simp [afterNoise, BitVec.add_assoc, BitVec.ofNat_add, BitVec.add_comm 1#32, Nat.add_assoc, Nat.add_comm 1 n,
    List.replicate_succ]

theorem ManRunning.after_noise {i : Instr} {s : State} (h : ManRunning i s) (n : Nat) :
    ManRunning i (afterNoise n s) := ⟨h.busy, h.op, h.variant⟩

/-- An input that delivers a sample which is no high peak. -/
def DeliversNoise (w : BitVec 12) : Prop :=
  (decodeInput w).rxReady = true ∧ (decodeInput w).abort = false ∧ (decodeInput w).sample.toNat ≤ 133

theorem ManRunning.pollIteration_of_noise {i : Instr} {s : State} (h : ManRunning i s) {w : BitVec 12}
    (hw : DeliversNoise w) (hp : s.phaseReg = 0#3) (hlim : s.idx.toNat < s.lat.limit.toNat)
    (hnoise : s.man.noiseCnt.toNat ≤ 768) : pollIteration w s = .next (afterNoise 1 s) := by
  obtain ⟨hready, habort, hx⟩ := hw
  rw [h.pollIteration_of_sample ⟨hready, habort⟩ hlim hnoise, manSample_of_seekHigh _ _ s.delivered hp,
    manSeekHigh_of_noise _ hx]
  rfl

/-- Up to the bound, every sample that is no high peak is counted. -/
theorem ManRunning.polls_of_noise {i : Instr} {ws : List (BitVec 12)} {s : State} (h : ManRunning i s)
    (hws : ∀ v ∈ ws, DeliversNoise v) (hp : s.phaseReg = 0#3) (hlim : s.idx.toNat < s.lat.limit.toNat)
    (hnoise : s.man.noiseCnt.toNat + ws.length ≤ 769) : polls ws s = .next (afterNoise ws.length s) := by
  induction ws generalizing s with
  | nil => rw [List.length_nil, afterNoise_zero, polls_nil]
  | cons w ws ih =>
    obtain ⟨hw, hrest⟩ := List.forall_mem_cons.1 hws
    rw [List.length_cons] at hnoise
    have hlt : s.man.noiseCnt.toNat < (769#32).toNat := show s.man.noiseCnt.toNat < 769 by omega
    have hcount : (afterNoise 1 s).man.noiseCnt.toNat = s.man.noiseCnt.toNat + 1 := toNat_succ_of_lt hlt
    rw [polls_cons_of_next _ _ _ _ (h.pollIteration_of_noise hw hp hlim (Nat.le_of_lt_succ hlt)),
      ih (h.after_noise 1) hrest hp hlim (by omega), afterNoise_succ, List.length_cons]

/-- The iteration after the run of noise that passes the bound ends the call, whatever it brings. -/
theorem ManRunning.polls_of_noise_then_any {i : Instr} {ws : List (BitVec 12)} {s : State} (h : ManRunning i s)
    (hws : ∀ v ∈ ws, DeliversNoise v) (hp : s.phaseReg = 0#3) (hlim : s.idx.toNat < s.lat.limit.toNat)
    (hnoise : s.man.noiseCnt.toNat + ws.length = 769) (w : BitVec 12) :
    polls (ws ++ [w]) s = .next (terminateCall .noiseTimeout (afterNoise ws.length s)) := by
  have hcount : Config.noiseMax < (s.man.noiseCnt + BitVec.ofNat 32 ws.length).toNat := by
    rw [BitVec.toNat_add, BitVec.toNat_ofNat, Nat.add_mod_mod, hnoise]; decide
  rw [polls_append_of_next _ _ _ _ (h.polls_of_noise hws hp hlim hnoise.le),
    polls_cons_of_next _ _ _ _ ((h.after_noise ws.length).pollIteration_above_noiseMax w hlim hcount), polls_nil]

/-! ### A run of data samples inside a period of MBITS (45_manchester.md R256, R257) -/

/-- The class of one more sample. -/
theorem lastClass_cons (w : BitVec 12) (ws : List (BitVec 12)) (held : Bool) :
    lastClass (w :: ws) held = lastClass ws (quantize true false (decodeInput w).sample held) := rfl

theorem lastClass_concat (ws : List (BitVec 12)) (w : BitVec 12) (held : Bool) :
    lastClass (ws ++ [w]) held = quantize true false (decodeInput w).sample (lastClass ws held) :=
  List.foldl_append

/-- MBITS holds the class of its last decisive sample and, where nothing reads it, an earlier one. -/
theorem updateBit_eq (x : Byte) (m : ManRegs) :
    updateBit x m = { m with curr := quantize true false x m.curr, prev := (updateBit x m).prev } := by
  rw [← updateBit_curr, ← updateBit_noiseCnt x m, ← updateBit_hold x m, ← updateBit_period x m]

/-- The state after `n` data samples of MBITS inside a period, with the bits `curr` and `prev`. -/
def insidePeriod (n : Nat) (curr prev : Bool) (s : State) : State :=
  { s with
    man := { s.man with curr := curr, prev := prev, period := s.man.period - BitVec.ofNat 32 n }
    trace := s.trace ++ List.replicate n .wdtKick
    samplesRead := s.samplesRead + n }

theorem insidePeriod_zero (s : State) : insidePeriod 0 s.man.curr s.man.prev s = s := by
  simp [insidePeriod]

theorem insidePeriod_succ (n : Nat) (c p c' p' : Bool) (s : State) :
    insidePeriod n c p (insidePeriod 1 c' p' s) = insidePeriod (n + 1) c p s := by
  have hperiod : s.man.period - 1#32 - BitVec.ofNat 32 n = s.man.period - BitVec.ofNat 32 (n + 1) := by
    rw [BitVec.ofNat_add, BitVec.sub_sub, BitVec.add_comm 1#32]
  simp [insidePeriod, hperiod, Nat.add_assoc, Nat.add_comm 1 n, List.replicate_succ]

theorem ManRunning.inside_period {i : Instr} {s : State} (h : ManRunning i s) (n : Nat) (c p : Bool) :
    ManRunning i (insidePeriod n c p s) := ⟨h.busy, h.op, h.variant⟩

/-- An iteration of MBITS that takes a data sample is the data rule, after the kick and the consumption. -/
theorem pollIteration_of_mbits_data {w : BitVec 12} {s : State} (h : ManRunning .mbits s) (hw : Delivers w)
    (hp : s.phaseReg = 2#3) (hlim : s.idx.toNat < s.lat.limit.toNat) (hnoise : s.man.noiseCnt.toNat ≤ 768) :
    pollIteration w s = (bitsData (decodeInput w).sample s.delivered).finish := by
  rw [h.pollIteration_of_sample hw hlim hnoise, manSample_of_data _ _ s.delivered hp]
  rfl

theorem pollIteration_inside_period {w : BitVec 12} {s : State} (h : ManRunning .mbits s) (hw : Delivers w)
    (hp : s.phaseReg = 2#3) (hlim : s.idx.toNat < s.lat.limit.toNat) (hnoise : s.man.noiseCnt.toNat ≤ 768)
    (hperiod : 1 < s.man.period.toNat) :
    pollIteration w s =
      .next
        (insidePeriod 1 (quantize true false (decodeInput w).sample s.man.curr)
          (updateBit (decodeInput w).sample s.man).prev s) := by
  rw [pollIteration_of_mbits_data h hw hp hlim hnoise, bitsData_inside_period _ (s := s.delivered) hperiod,
    updateBit_eq]
  rfl

/-- Samples that do not reach the end of the period write nothing and keep the class of the last decisive one. -/
theorem polls_inside_period {ws : List (BitVec 12)} {s : State} (h : ManRunning .mbits s)
    (hws : ∀ v ∈ ws, Delivers v) (hp : s.phaseReg = 2#3) (hlim : s.idx.toNat < s.lat.limit.toNat)
    (hnoise : s.man.noiseCnt.toNat ≤ 768) (hperiod : ws.length < s.man.period.toNat) :
    ∃ p, polls ws s = .next (insidePeriod ws.length (lastClass ws s.man.curr) p s) := by
  induction ws generalizing s with
  | nil => exact ⟨s.man.prev, congrArg _ (insidePeriod_zero s).symm⟩
  | cons w ws ih =>
    obtain ⟨hw, hrest⟩ := List.forall_mem_cons.1 hws
    rw [List.length_cons] at hperiod
    have hleft : (s.man.period - 1#32).toNat = s.man.period.toNat - 1 := by bv_omega
    have hpoll := pollIteration_inside_period h hw hp hlim hnoise (by omega)
    obtain ⟨p, hpolls⟩ := ih (h.inside_period 1 (quantize true false (decodeInput w).sample s.man.curr)
      (updateBit (decodeInput w).sample s.man).prev) hrest hp hlim hnoise (by rw [insidePeriod, hleft]; omega)
    refine ⟨p, ?_⟩
    rw [polls_cons_of_next _ _ _ _ hpoll, hpolls, insidePeriod_succ, lastClass_cons]
    rfl

/-- The sample that ends the period writes one byte, and the period starts again. -/
theorem pollIteration_at_period_end {w : BitVec 12} {s : State} (h : ManRunning .mbits s) (hw : Delivers w)
    (hp : s.phaseReg = 2#3) (hlim : s.idx.toNat < s.lat.limit.toNat) (hnoise : s.man.noiseCnt.toNat ≤ 768)
    (hcap : s.lat.limit.toNat ≤ s.cap) (hperiod : s.man.period = 1#32) :
    ∃ p,
      pollIteration w s = .next
        { s with
          trace := s.trace ++ [.wdtKick]
          samplesRead := s.samplesRead + 1
          buf := s.buf.write s.idx.toNat (flagBit 8 (quantize true false (decodeInput w).sample s.man.curr))
          idx := s.idx + 1#32
          man :=
            { s.man with
              curr := quantize true false (decodeInput w).sample s.man.curr
              prev := p
              period := 384#32 } } := by
  refine ⟨(updateBit (decodeInput w).sample s.man).prev, ?_⟩
  rw [pollIteration_of_mbits_data h hw hp hlim hnoise,
    bitsData_at_period_end _ (s := s.delivered) hperiod (hlim.trans_le hcap), updateBit_eq]
  rfl

end Sys2Proof.Machine

open Sys2Proof Sys2Proof.Machine

/-- Settles O35: the acceptance the two commands share, its limit clamped. -/
theorem manchesterCommandsStartACall : Obligations.ManchesterCommandsStartACall := by
  intro s i hb hi
  refine ⟨clampToCap s s.args.arg0, none, clampToCap_toNat s _, ?_⟩
  rw [exec_of_idle i s hb]
  rcases hi with rfl | rfl
  · rfl
  · rfl

/-- Settles O36: the limit, the noise, the abort and the sample are tested in this order. -/
theorem manchesterIterationTests : Obligations.ManchesterIterationTests := by
  intro s i w hb hop hi
  have hs : ManRunning i s := ⟨hb, hop, hi⟩
  refine ⟨hs.pollIteration_at_limit w, hs.pollIteration_above_noiseMax w, fun hlim hnoise habort => ?aborted,
    fun hlim hnoise habort hready => ?unready⟩
  case aborted => rw [hs.poll_eq, iterateManchester_inside _ _ hlim hnoise, if_pos habort, finish_terminate]
  case unready =>
    rw [hs.poll_eq, iterateManchester_inside _ _ hlim hnoise, habort, hready]
    rfl

/-- Settles O37: the iteration is the rule of the current search applied to `u`, and each rule goes by its threshold. -/
theorem manchesterPeakSearch : Obligations.ManchesterPeakSearch := by
  intro s u i w x hb hop hi hlim hnoise habort hready hx hu
  subst hx
  obtain rfl : u = s.delivered := hu.trans (delivered_eq s).symm
  have hrule : ∀ t, manSample (dataRule i) (decodeInput w).sample s.delivered = .pass t →
      pollIteration w s = .next t := fun t ht => by
      rw [ManRunning.pollIteration_of_sample ⟨hb, hop, hi⟩ ⟨hready, habort⟩ hlim hnoise, ht, finish_pass]
  refine ⟨fun hp h => hrule _ ?highPeak, fun hp h => hrule _ ?lowPeak, fun hcase => hrule _ ?noise⟩
  case highPeak => exact (manSample_of_seekHigh _ _ s.delivered hp).trans (manSeekHigh_of_peak _ h)
  case lowPeak => exact (manSample_of_seekLow _ _ s.delivered hp).trans (manSeekLow_of_peak _ h)
  case noise =>
    rcases hcase with ⟨hp, h⟩ | ⟨hp, h⟩
    · exact (manSample_of_seekHigh _ _ s.delivered hp).trans (manSeekHigh_of_noise _ h)
    · exact (manSample_of_seekLow _ _ s.delivered hp).trans (manSeekLow_of_noise _ h)

/-- Settles O38: the byte of QUANT goes to `idx`, which the limit keeps inside the buffer. -/
theorem mfillWritesOneByteASample : Obligations.MfillWritesOneByteASample := by
  intro s w q hb hop hp hlim hcap hnoise habort hready hq
  have hquant : q = quantize 255#8 0#8 (decodeInput w).sample s.man.hold := hq
  rw [ManRunning.pollIteration_of_sample ⟨hb, hop, .inl rfl⟩ ⟨hready, habort⟩ hlim hnoise,
    manSample_of_data _ _ s.delivered hp, hquant]
  exact congrArg Flow.finish (fillData_of_lt _ (s := s.delivered) (hlim.trans_le hcap))

/-- Settles O39: 383 samples bring the period down to 1, and the last one ends it. -/
theorem mbitsEmitsOneBitAPeriod : Obligations.MbitsEmitsOneBitAPeriod := by
  intro s ws hb hop hp hperiod hnoise hlim hcap hlen hws
  have hs : ManRunning .mbits s := ⟨hb, hop, .inr rfl⟩
  obtain rfl | ⟨us, w, rfl⟩ := List.eq_nil_or_concat' ws
  · exact absurd hlen (by decide)
  have husLen : us.length = 383 := by simpa using hlen
  obtain ⟨hus, hw⟩ := List.forall_mem_append.1 hws
  obtain ⟨p, hpolls⟩ := polls_inside_period hs hus hp hlim hnoise (by rw [husLen, hperiod]; decide)
  rw [husLen] at hpolls
  obtain ⟨q, hlast⟩ := pollIteration_at_period_end (hs.inside_period 383 (lastClass us s.man.curr) p)
    (hw w (List.mem_singleton_self w)) hp hlim hnoise hcap (by rw [insidePeriod, hperiod]; rfl)
  refine ⟨q, ?_⟩
  rw [polls_append_of_next _ _ _ _ hpolls, polls_cons_of_next _ _ _ _ hlast, polls_nil, lastClass_concat]
  have hkicks : s.trace ++ List.replicate 383 .wdtKick ++ [.wdtKick] = s.trace ++ List.replicate 384 Event.wdtKick := by
    rw [List.append_assoc, ← List.replicate_succ']
  simp only [insidePeriod, hkicks, hperiod, flagBit]

/-- Settles O40: the run of noise brings the count to 769 and leaves `idx` and the buffer alone, so the second test of
the next iteration ends the call. -/
theorem manchesterNoiseTimesOut : Obligations.ManchesterNoiseTimesOut := by
  intro s i ws w hb hop hi hp hidx hnoise hlim hlen hws
  have hs : ManRunning i s := ⟨hb, hop, hi⟩
  have hbelow : s.idx.toNat < s.lat.limit.toNat := by rw [hidx]; exact hlim
  have hcount : s.man.noiseCnt.toNat + ws.length = 769 := by rw [hnoise, hlen]; rfl
  refine ⟨_, hs.polls_of_noise_then_any hws hp hbelow hcount w, terminateCall_busy _ _, terminateCall_cause _ _,
    ?result, terminateCall_buf _ _, ?samples⟩
  case result => rw [terminateCall_result, (hs.after_noise ws.length).resultOf_eq, ← hidx]; rfl
  case samples => rw [terminateCall_samplesRead, ← hlen]; rfl

end

section
/-! The terminating step: the events of each command and what it returns (60_exceptions.md R283), and what `RESULT` is
for each cause (R272 to R277). -/

namespace Sys2Proof.Machine

/-! ### The events and the result of each command -/

/-- The READLF family by its names (30_encoding.md R104). -/
theorem readlfFamily_iff (i : Instr) : i.readlfFamily = true ↔ i = .readlf ∨ i = .reader ∨ i = .sniff := by
  cases i <;> decide

@[simp] theorem terminatePost_op (s : State) : (terminatePost s).op = s.op := by
  unfold terminatePost
  (repeat' split) <;> rfl

@[simp] theorem terminatePost_lat (s : State) : (terminatePost s).lat = s.lat := by
  unfold terminatePost
  (repeat' split) <;> rfl

/-- The post-processing events of line 2: over the accepted samples for the ACQ family, over the bytes written for
MFILL. -/
theorem terminatePost_trace {i : Instr} (hl : i.looping = true) {s : State} (hop : s.op = i.opcode) :
    (terminatePost s).trace = s.trace ++
      (if i = .edge ∨ i = .mbits then []
       else if i = .mfill then [.postOffset s.idx, .postScore s.idx]
       else [.postOffset s.acq.totalAccepted, .postScore s.acq.totalAccepted]) := by
  rw [terminatePost, opIs_of_op _ s i hop, opIs_of_op _ s i hop]
  rcases looping_cases hl with hi | rfl | rfl | rfl
  · obtain ⟨-, hedge, hman⟩ := acqFamily_facts hi
    rw [not_or] at hman
    simp [hi, hedge, hman, postProcess, State.emitAll]
  · exact (List.append_nil _).symm
  · rfl
  · exact (List.append_nil _).symm

/-- The front-end events of line 3: the READLF family powers off, and reports when verbose. -/
theorem terminateFrontEnd_trace {i : Instr} {s : State} (hop : s.op = i.opcode) :
    (terminateFrontEnd s).trace = s.trace
      ++ (if i = .readlf ∨ i = .reader ∨ i = .sniff then [.feOff] else [])
      ++ (if (i = .readlf ∨ i = .reader ∨ i = .sniff) ∧ s.lat.verbose = true then [.diag .summary] else []) := by
  rw [terminateFrontEnd, opIs_of_op _ s i hop]
  simp only [← readlfFamily_iff]
  cases i.readlfFamily with
  | true => simp [State.emitAll]
  | false => simp

/-- What a looping command returns (line 4). -/
theorem resultOf_of_looping {i : Instr} (hl : i.looping = true) {s : State} (hop : s.op = i.opcode) :
    resultOf s = if i = .edge ∨ i = .mfill ∨ i = .mbits then s.idx else s.bp.numBits := by
  rw [resultOf, opIs_of_op _ s i hop]
  rcases looping_cases hl with hi | rfl | rfl | rfl
  · obtain ⟨-, hedge, hman⟩ := acqFamily_facts hi
    rw [if_pos hi, if_neg (not_or.2 ⟨hedge, hman⟩)]
  all_goals rfl

/-! ### What a call returns for each cause -/

/-- The value returned with a cause, when `whole` is what a call that runs to its end returns: the whole for DONE,
nothing for the causes raised while the call still waits or seeks (60_exceptions.md R272, R273, R275 to R277). USER_ABORT
(R274) leaves it open, and `none` ends no call. -/
def ReturnsFor (whole : Nat) (r : Word) : Cause → Prop
  | .done => r.toNat = whole
  | .noSignal => r = 0#32
  | .raceAbort => r = 0#32
  | .noEdge => r = 0#32
  | .noiseTimeout => r = 0#32
  | .userAbort => True
  | .none => True

/-- An iteration that, if it ends the call, returns what its cause says. -/
abbrev Flow.ReturnsSat (f : Flow) (whole : State → Nat) (value : State → Word) : Prop :=
  f.Sat (fun _ => True) fun c t => ReturnsFor (whole t) (value t) c

/-- The bits of a whole budget (42_acquire.md R186). -/
def budgetBits (s : State) : Nat := s.lat.budget.toNat * s.lat.bps.toNat

/-- An iteration of the generic engine that, if it ends the call, returns what its cause says. -/
abbrev Flow.BitsSat (f : Flow) : Prop := f.ReturnsSat budgetBits fun t => t.bp.numBits

/-- Nothing has been logged while the trigger is armed (42_acquire.md R173). -/
theorem AcqInv.numBits_of_armed {s : State} (hi : AcqInv s) (ha : s.acq.armed = true) : s.bp.numBits = 0#32 :=
  BitVec.eq_of_toNat_eq (by rw [hi.bits, (hi.waiting (.inl ha)).1]; simp)

/-- A call whose budget is already used up at the start of an iteration had none, and has logged nothing. -/
theorem AcqInv.numBits_of_no_budget {s : State} (hi : AcqInv s) (h0 : s.acq.remainingBudget = 0#32) :
    s.bp.numBits.toNat = budgetBits s := by
  have hbal := hi.balance
  rw [h0] at hbal
  rw [hi.bits, budgetBits, ← hbal]
  simp

/-- The accepted value that uses up the last of the budget is the last one of the budget. -/
theorem AcqInv.accepted_succ_eq_budget {s : State} (hi : AcqInv s) (hl : s.acq.remainingBudget ≠ 0#32)
    (hlast : s.acq.remainingBudget - 1#32 = 0#32) : s.acq.totalAccepted.toNat + 1 = s.lat.budget.toNat := by
  have hbal := hi.balance
  have hpos := toNat_pos_of_ne_zero hl
  have hpred := toNat_pred_of_ne_zero hl
  rw [hlast, BitVec.toNat_zero] at hpred
  omega

/-- The bits of a whole budget fit the buffer, so they fit a word. -/
theorem AcqInv.budgetBits_lt {s : State} (hi : AcqInv s) : budgetBits s < 2 ^ 32 := by
  have hcap := cap_lt s
  have hfits : budgetBits s ≤ s.cap * 8 := Nat.mul_le_mul hi.budget_le hi.bps_le
  omega

/-- The sample that fills the budget brings the bits to those of the whole budget (42_acquire.md R180, R186). -/
theorem logValue_returns (v : Byte) {s : State} (hi : AcqInv s) (hb : BufferOk s.buf s.cap)
    (hl : s.acq.remainingBudget ≠ 0#32) : (logValue v s).BitsSat := by
  obtain ⟨m, -, -, hstore⟩ := storeSample_ok v s hb.wf hb.within hi hl
  rw [logValue, hstore, ofAccess_ok, andThen_pass]
  unfold countBudget
  simp only []
  split
  · rename_i hlast
    simp only [sat_terminate, ReturnsFor, hi.accepted_succ_eq_budget hl hlast]
    exact Nat.mod_eq_of_lt hi.budgetBits_lt
  · trivial

theorem decimate_returns (x : Byte) {s : State} (hi : AcqInv s) (hb : BufferOk s.buf s.cap)
    (hl : s.acq.remainingBudget ≠ 0#32) : (decimate x s).BitsSat := by
  rcases decimate_cases_of_inv x hi with ⟨-, h⟩ | ⟨v, h⟩
  · rw [h]; trivial
  · rw [h]; exact logValue_returns v hi.clearGroup hb hl

/-- NO_SIGNAL comes before the trigger, DONE with the budget used up. -/
theorem processSample_returns (x : Byte) {s : State} (hi : AcqInv s) (hb : BufferOk s.buf s.cap) :
    (processSample x s).BitsSat := by
  unfold processSample
  split
  · exact hi.numBits_of_no_budget ‹_›
  · rename_i hl
    rcases gate_cases x s with h | ⟨ha, -, n, h | ⟨-, h⟩⟩
    · rw [h, andThen_pass]
      rcases skipSample_cases { s with acq := { s.acq with armed := false } } with ⟨-, h'⟩ | ⟨-, h'⟩
      · rw [h', andThen_discard]; trivial
      · rw [h', andThen_pass]; exact decimate_returns x hi.fire hb hl
    · rw [h, andThen_discard, andThen_discard]; trivial
    · rw [h, andThen_terminate, andThen_terminate]; exact hi.numBits_of_armed ha

theorem kickAndProcess_returns (inp : Input) {s : State} (hi : AcqInv s) (hb : BufferOk s.buf s.cap) :
    (kickAndProcess inp s).BitsSat := by
  cases hr : inp.rxReady with
  | true =>
    rw [kickAndProcess_of_ready inp s hr]
    exact processSample_returns _ (hi.congr rfl rfl rfl rfl) hb
  | false => rw [kickAndProcess_of_not_ready inp s hr]; trivial

/-- RACE_ABORT comes before the trigger too. -/
theorem iterateAcquisition_returns (inp : Input) {s : State} (hi : AcqInv s) (hb : BufferOk s.buf s.cap)
    (hper : 1 ≤ s.params.racePeriod.toNat) : (iterateAcquisition inp s).BitsSat := by
  unfold iterateAcquisition
  split
  · trivial
  · obtain ⟨n, h | ⟨hn, h⟩⟩ := raceCheck_cases_of_inv inp hi hper
    · obtain ⟨m, h'⟩ | ⟨ha, -, -⟩ := raceCheck_cases inp s
      · rw [h] at h'; cases h'
      · rw [h, andThen_terminate]; exact hi.numBits_of_armed ha
    · rw [h, andThen_pass]; exact kickAndProcess_returns inp (hi.with_raceCnt hn) hb

/-- An iteration of a specialized engine that, if it ends the call, returns what its cause says. -/
abbrev Flow.BytesSat (f : Flow) : Prop := f.ReturnsSat (fun t => t.lat.limit.toNat) fun t => t.idx

/-- A line that ends no call. -/
theorem bytesSat_of_going_on {f : Flow} {P : State → Prop} (h : f.Sat P fun _ _ => False) : f.BytesSat :=
  sat_mono h (fun _ _ => trivial) fun _ _ hf => hf.elim

/-- The bound on the discards is met while seeking only, before the first byte (44_edge_capture.md R229, R230). -/
theorem EdgeCall.idx_at_skipMax {s : State} (hi : EdgeCall s) (hs : Config.edgeSkipMax ≤ s.edge.skipCnt.toNat) :
    s.idx = 0#32 := by
  obtain ⟨hinv, hp⟩ := hi
  refine hinv.seeking (Nat.le_of_not_lt fun h4 => ?_)
  have := (hinv.collecting (by omega)).2
  omega

/-- Above the noise limit both peaks are still sought, before the first byte (45_manchester.md R246). -/
theorem ManCall.idx_above_noiseMax {s : State} (hi : ManCall s) (hn : Config.noiseMax < s.man.noiseCnt.toNat) :
    s.idx = 0#32 := by
  obtain ⟨hinv, hp⟩ := hi
  refine hinv.seeking (Nat.lt_of_not_le fun h2 => ?_)
  rw [hinv.data_noise (by omega)] at hn
  exact absurd hn (by decide)

theorem iterateEdge_returns (inp : Input) {s : State} (hi : EdgeCall s) (hb : BufferOk s.buf s.cap) :
    (iterateEdge inp s).BytesSat := by
  unfold iterateEdge
  split
  · exact Nat.le_antisymm hi.1.idx_le ‹_›
  rename_i hlim
  split
  · exact hi.idx_at_skipMax ‹_›
  rename_i hskip
  split
  · trivial
  simp only []
  split
  · exact bytesSat_of_going_on
      (edgeSample_sat inp.sample (s := (s.emit .wdtKick).consumeSample) ⟨hi.1.congr rfl rfl rfl rfl rfl, hi.2⟩ hb
        (Nat.lt_of_not_le hskip) (Nat.lt_of_not_le hlim))
  · trivial

theorem iterateManchester_returns {data : Byte → State → Flow} (hd : KeepsManchester data) (inp : Input) {s : State}
    (hi : ManCall s) (hb : BufferOk s.buf s.cap) : (iterateManchester data inp s).BytesSat := by
  unfold iterateManchester
  split
  · exact Nat.le_antisymm hi.1.idx_le ‹_›
  rename_i hlim
  split
  · exact hi.idx_above_noiseMax ‹_›
  rename_i hnoise
  split
  · trivial
  simp only []
  split
  · exact bytesSat_of_going_on
      (manSample_sat hd inp.sample (s := (s.emit .wdtKick).consumeSample) ⟨hi.1.congr rfl rfl rfl rfl rfl, hi.2⟩ hb
        (Nat.le_of_not_lt hnoise) (Nat.lt_of_not_le hlim))
  · trivial

/-- An iteration of any engine that, if it ends the call, returns what its cause says. -/
theorem iterate_returns {i : Instr} (inp : Input) {s : State} (he : EngineInv i s) (hb : BufferOk s.buf s.cap)
    (hper : 1 ≤ s.params.racePeriod.toNat) :
    (iterate i inp s).ReturnsSat (fun t => if i.acqFamily then budgetBits t else t.lat.limit.toNat)
      fun t => if i.acqFamily then t.bp.numBits else t.idx := by
  rcases looping_cases he.looping with hi | rfl | rfl | rfl
  · rw [iterate_of_acqFamily hi, hi]; exact iterateAcquisition_returns inp (he.acq hi) hb hper
  · exact iterateEdge_returns inp (he.edge rfl) hb
  · exact iterateManchester_returns fillData_sat inp (he.man (.inl rfl)) hb
  · exact iterateManchester_returns bitsData_sat inp (he.man (.inr rfl)) hb

/-- What a call returns when it runs to its end: the bits of the whole budget, or the whole limit. -/
def wholeResult (s : State) : Nat := if opIs Instr.acqFamily s then budgetBits s else s.lat.limit.toNat

/-- A poll iteration of a legal call that ends it leaves in `RESULT` what the cause says. -/
theorem pollIteration_returns {w : BitVec 12} {s t : State} (h : s.Inv) (hb : s.busy = true)
    (ht : pollIteration w s = .next t) (hend : t.busy = false) : ReturnsFor (wholeResult s) t.result t.cause := by
  obtain ⟨i, u, hop, hu, ⟨rfl, -⟩ | ⟨c, -, rfl, hit⟩⟩ := pollIteration_cases hb ht
  · rw [hu.frame.busy, hb] at hend; cases hend
  · obtain ⟨-, -, -, hper⟩ := (params_wf_iff _).1 h.params
    have hret := iterate_returns (decodeInput w) (h.engine hb hop) ⟨h.buffer.wf, h.buffer.within⟩ hper
    simp only [hit, Flow.ReturnsSat, sat_terminate, budgetBits, hu.frame.lat] at hret
    rwa [terminateCall_result, terminateCall_cause, resultOf, wholeResult, budgetBits,
      opIs_of_op _ u i (hu.frame.op.trans hop), opIs_of_op _ s i hop]

end Sys2Proof.Machine

open Sys2Proof Sys2Proof.Machine

/-- Settles O41: the result of each command, and the events of lines 2 and 3 one after the other. -/
theorem terminatingStepOfEveryCommand : Obligations.TerminatingStepOfEveryCommand := by
  intro s i c hop hl
  refine ⟨(terminatePost s).postDue, ?_⟩
  rw [terminateCall_eq, resultOf_of_looping hl hop, terminateFrontEnd_trace ((terminatePost_op s).trans hop),
    terminatePost_trace hl hop, terminatePost_lat]

/-- Settles O42: the causes raised while waiting or seeking come before the first bit or byte, DONE comes when the
budget or the limit is reached. -/
theorem resultForEachCause : Obligations.ResultForEachCause := by
  intro s t w h hb ht hend
  have hret := pollIteration_returns h hb ht hend
  rw [wholeResult] at hret
  refine ⟨?none, fun hc hacq => ?bits, fun hc hacq => ?bytes⟩
  case none => rintro (hc | hc | hc | hc) <;> (rw [hc] at hret; exact hret)
  case bits => rw [hc, if_pos hacq] at hret; exact hret
  case bytes =>
    rw [hc, hacq] at hret
    exact BitVec.eq_of_toNat_eq hret

end
